-- ==== Sys2Proof/Word.lean ====
section
/-! DEFINITION. The word types of QRRS-CORE: the host port's data and address widths (20_memory.md R80) and the field
element (42_galois.md R200). Everything built over them (fields of a word, byte order, sign extension) stands in Machine/. -/

namespace Sys2Proof

/-- A word of the host port: 32 bits of data (R80). -/
abbrev Word := BitVec 32

/-- A byte address of the host port: 20 bits (R80). -/
abbrev Addr := BitVec 20

/-- An element of GF(2^8), which is also a codeword's value (R16, R200). -/
abbrev Elem := BitVec 8

/-- A tri-state code as the memories hold it: 0, 1, 2 = unknown, 3 = reserved (00_scope.md R14). -/
abbrev TriCode := BitVec 2

end Sys2Proof
end

