-- ==== Sys2Proof/Config.lean ====
section
/-! DEFINITION. What an implementation fixes (00_scope.md R8: the OPEN parameters) and the free values. A free value is an
opaque constant without a body: a statement about it holds for every value it could have. The parameters VEC_TABLE and
MASK_FN are data of State (Machine/State.lean), so that a statement over all states holds for all of them; the parameters
BUS_PROTOCOL, RESET_SIGNAL and CMD_LATENCY need no constant, since no rule depends on them (R8, R341). -/

namespace Sys2Proof

/-- A group of a version/EC table entry: so many blocks of so many data codewords each (10_state.md R47). -/
structure Group where
  blockCount : Nat
  codewords  : Nat
  deriving DecidableEq, Repr

/-- An entry of VEC_TABLE: the EC codewords per block and the ordered groups (10_state.md R47). -/
structure VecEntry where
  ec     : Nat
  groups : List Group
  deriving DecidableEq, Repr

/-- The parameter VEC_TABLE (10_state.md R47): the ISO default of R48, or a table of entries that the part brings, entry
4·(v−1) + EC_LEVEL for version v, with the known total of data codewords of each entry in the same order, against which
"a model that takes another table must bring that check itself" (41_deinterleave.md R181). Log 18. -/
inductive VecTable where
  | iso
  | custom (entries : List VecEntry) (knownTotals : List Nat)
  deriving DecidableEq, Repr

/-- The parameter MASK_FN (40_traversal.md R144): the ISO default, or some other eight predicates, of which nothing is known. -/
inductive MaskFn where
  | iso
  | custom
  deriving DecidableEq, Repr

/-- The eight predicates mask_m(x, y) of an implementation that does not take the default (R144, D14). A parameter. -/
opaque Config.customMask : BitVec 3 → Nat → Nat → Bool

/-- The byte that draw number `d` finds at byte address `a` when nothing has written `a` (10_state.md R63, 93 U1). Log 2. -/
opaque Config.freeByte : (d : Nat) → (a : Nat) → BitVec 8

/-- The word that draw number `d` returns to a host read made while a command runs (20_memory.md R87, 93 U2). Log 3. -/
opaque Config.freeWord : (d : Nat) → Word

/-- What the latch PENDING holds after the completion numbered `d`, while BUSY = 0 (10_state.md R63, 93 U6). Log 4. -/
opaque Config.freePending : (d : Nat) → Word

/-- What the field codewordsPerBlock of GROUPg reads for a group without blocks whose number does not fit in 8 bits
(10_state.md R46 does not state it). Log 13. -/
opaque Config.wideCodewords : (n : Nat) → BitVec 8

end Sys2Proof
end

