-- ==== Sys2Proof/Syntax.lean ====
section
/-! DEFINITION. The commands of QRRS-CORE: one constructor per row of spec/opcode_table.json (30_encoding.md R112).
The block index is the 8-bit field ARG (R111), the erasure source the bit AUTO (R110). -/

namespace Sys2Proof

/-- A decoded command word (R112). -/
inductive Instr where
  /-- NOP (R280). -/
  | nop
  /-- TRAVERSE (R140). -/
  | traverse
  /-- DEINTERLEAVE (R170). -/
  | deinterleave
  /-- SYNDROME k (R241). -/
  | syndrome (k : BitVec 8)
  /-- CORRECT k, with AUTO = 1 when the erasures are the unknown flags (R252). -/
  | correct (k : BitVec 8) (auto : Bool)
  /-- CORRECT_ALL (R253). -/
  | correctAll
  /-- POLY_EVAL k (R220). -/
  | polyEval (k : BitVec 8)
  /-- GF_ADD (R213). -/
  | gfAdd
  /-- GF_MUL (R214). -/
  | gfMul
  /-- GF_DIV (R215). -/
  | gfDiv
  /-- GF_INV (R216). -/
  | gfInv
  /-- GF_POW (R217). -/
  | gfPow
  /-- GF_EXP (R218). -/
  | gfExp
  /-- GF_LOG (R219). -/
  | gfLog
  /-- RESET (R281). -/
  | reset
  deriving DecidableEq, Repr

end Sys2Proof
end

