-- ==== Sys2Proof/WellFormed.lean ====
section
/-! DEFINITION. What must hold of data given to the model. A command needs no check of its own: `Instr` holds ARG as the
8-bit field it is and AUTO as a bit, so every value of `Instr` is a legal command (30_encoding.md R112, R113), and a word
that is none is refused by the decoder. VEC_TABLE is a parameter and needs the four conditions of 00_scope.md R9 and the
self-consistency of 41_deinterleave.md R181. -/

namespace Sys2Proof

/-- NB, the total number of blocks of an entry (R9, R16). -/
def VecEntry.blocks (e : VecEntry) : Nat := (e.groups.map Group.blockCount).sum

/-- D, the total number of data codewords of an entry (R9, R16). -/
def VecEntry.dataTotal (e : VecEntry) : Nat := (e.groups.map fun g => g.blockCount * g.codewords).sum

/-- E, the total number of EC codewords of an entry (R9, R16). -/
def VecEntry.ecTotal (e : VecEntry) : Nat := e.blocks * e.ec

/-- R9 (1): at most GROUP_SLOTS = 2 groups. -/
abbrev VecEntry.groupsFit (e : VecEntry) : Prop := e.groups.length ≤ 2

/-- R9 (2): 1 ≤ NB ≤ BLOCK_SLOTS = 128. -/
abbrev VecEntry.blocksFit (e : VecEntry) : Prop := 1 ≤ e.blocks ∧ e.blocks ≤ 128

/-- R9 (3): a group that has blocks has a data codeword, and its blocks have at most 255 codewords. -/
abbrev VecEntry.lengthsFit (e : VecEntry) : Prop :=
  ∀ g ∈ e.groups, 0 < g.blockCount → 1 ≤ g.codewords ∧ g.codewords + e.ec ≤ 255

/-- R9 (4): the entry's bits fit in BITS memory, BITSTREAM_CAP = 32768 entries. -/
abbrev VecEntry.streamFits (e : VecEntry) : Prop := 8 * (e.dataTotal + e.ecTotal) ≤ 32768

/-- An entry meets the four conditions of R9. -/
abbrev VecEntry.wf (e : VecEntry) : Prop := e.groupsFit ∧ e.blocksFit ∧ e.lengthsFit ∧ e.streamFits

/-- A version/EC table has one entry for each of 40 versions and 4 levels (10_state.md R47), each meeting R9. DESIGN CHOICE:
v1-L is an entry like any other, so a table brought in place of the default may hold another one there, although R47 gives
v1-L from the source and 93 U13 calls only the other entries open; R8 and 92 D17 make the whole table a parameter. Safe: a
statement about such tables speaks of those that keep v1-L too. Log 5. -/
abbrev VecTableWf (t : List VecEntry) : Prop := t.length = 160 ∧ ∀ e ∈ t, e.wf

/-- Table self-consistency: D of every entry is the known total of data codewords of its version and level
(41_deinterleave.md R181). -/
abbrev TotalsAgree (t : List VecEntry) (knownTotals : List Nat) : Prop := t.map VecEntry.dataTotal = knownTotals

end Sys2Proof
end

