-- ==== Sys2Proof/Machine/Rom.lean ====
section
/-! DEFINITION. The read-only tables: the field tables EXP and LOG (42_galois.md R200, R201), the default VEC_TABLE
(10_state.md R48) and the default MASK_FN (40_traversal.md R144). -/

namespace Sys2Proof.Machine

/-- Byte `i` of a table stored sixteen bytes a row, byte 0 of a row in its low bits. -/
def romByte (rows : List Nat) (i : Nat) : Nat := (rows.getD (i / 16) 0 >>> (8 * (i % 16))) % 256

/-- EXP[0..254], laid out as 95_test_vectors.md §2.1 prints it (each row's first byte lowest). That these are the powers
R200 builds is the statement ExpAndLogTables. -/
def expRows : List Nat :=
  [0x261387CDE8743A1D8040201008040201, 0xC06030180C06038FC9EA75B45A2D984C,
   0x239FC1EE77B5D46A35944A259C4E279D, 0xA1DE6FB9D269BA5DA05028140A058C46,
   0xF0783C1E0F89CA65BC5E2F99C261BE5F, 0xE271B65BA3DFE1FE7FB1D66BBBD3E7FD,
   0xCE67BDD068341A0D884422118643AFD9, 0xCC663397C5EC763B93C7EDF87C3E1F81] ++
  [0x542A158442219E4FA9DA6DB85C2E1785, 0x73B7D5E472399249AA55A452299A4DA8,
   0xFFF1F67BB3D7E5FC7E3F91C663BFD1E6, 0x41AE57A5DC6E3795C46231964BABDBE3,
   0xA653A7DDE070381C0E078DC864321982, 0x098A45AC562B9BC3EFF9F279B259A251,
   0x160B8BCBEBFBF3F7F5F47A3D90482412, 0x008E47ADD86C361B83CFE9FA7DB0582C]

/-- LOG[1..255], laid out in the same way. The place of LOG[0], which R201 leaves undefined, holds 0 and is never read. -/
def logRows : List Nat :=
  [0x4BC7681BEE33DF03C61A320219010000, 0x714C08C8F869C11C81EF8D340EE06404,
   0x458212F0DA8E9335210F24E12F658A05, 0xA672E44D78099AC9B9F9276A7DC2B51D,
   0x88229110B32598E2FD30DD66628BBF06, 0x404638835C13D2F1BDDB968FCE94D036,
   0x3DBA85FA54283A6B6E7E48C3A3B6421E, 0x57A7F373ACE5D44E2B79150A9F9B5ECA] ++
  [0x18FEC531EDDE4A670D63808CF7C07007, 0x2E892023D99244117CB4B8267799A5E3,
   0x61BEFCDCB2978790CDCFBC955BD13F37, 0xA2416D4753393C849E5D2A14ABD356F2,
   0xF66F0C7FEC4917C476A47BB7D8432D1F, 0x5A3ECCBBB18660FBAA559D29523BA16C,
   0xD72C757AEB16F50B51A0A99CB05F59CB, 0xAF5850A8EAF4D674E8ADE7E6E9D5AE4F]

/-- The default entries of one version, given in the order L, M, Q, H of R48's columns and put in the order M, L, H, Q in
which EC_LEVEL numbers them (10_state.md R36). -/
def isoVersion (l m q h : VecEntry) : List VecEntry := [m, l, h, q]

/-- Versions 1 to 10 of the default VEC_TABLE (R48). -/
def isoVersions0 : List VecEntry :=
  isoVersion ⟨7, [⟨1, 19⟩]⟩ ⟨10, [⟨1, 16⟩]⟩
    ⟨13, [⟨1, 13⟩]⟩ ⟨17, [⟨1, 9⟩]⟩ ++
  isoVersion ⟨10, [⟨1, 34⟩]⟩ ⟨16, [⟨1, 28⟩]⟩
    ⟨22, [⟨1, 22⟩]⟩ ⟨28, [⟨1, 16⟩]⟩ ++
  isoVersion ⟨15, [⟨1, 55⟩]⟩ ⟨26, [⟨1, 44⟩]⟩
    ⟨18, [⟨2, 17⟩]⟩ ⟨22, [⟨2, 13⟩]⟩ ++
  isoVersion ⟨20, [⟨1, 80⟩]⟩ ⟨18, [⟨2, 32⟩]⟩
    ⟨26, [⟨2, 24⟩]⟩ ⟨16, [⟨4, 9⟩]⟩ ++
  isoVersion ⟨26, [⟨1, 108⟩]⟩ ⟨24, [⟨2, 43⟩]⟩
    ⟨18, [⟨2, 15⟩, ⟨2, 16⟩]⟩ ⟨22, [⟨2, 11⟩, ⟨2, 12⟩]⟩ ++
  isoVersion ⟨18, [⟨2, 68⟩]⟩ ⟨16, [⟨4, 27⟩]⟩
    ⟨24, [⟨4, 19⟩]⟩ ⟨28, [⟨4, 15⟩]⟩ ++
  isoVersion ⟨20, [⟨2, 78⟩]⟩ ⟨18, [⟨4, 31⟩]⟩
    ⟨18, [⟨2, 14⟩, ⟨4, 15⟩]⟩ ⟨26, [⟨4, 13⟩, ⟨1, 14⟩]⟩ ++
  isoVersion ⟨24, [⟨2, 97⟩]⟩ ⟨22, [⟨2, 38⟩, ⟨2, 39⟩]⟩
    ⟨22, [⟨4, 18⟩, ⟨2, 19⟩]⟩ ⟨26, [⟨4, 14⟩, ⟨2, 15⟩]⟩ ++
  isoVersion ⟨30, [⟨2, 116⟩]⟩ ⟨22, [⟨3, 36⟩, ⟨2, 37⟩]⟩
    ⟨20, [⟨4, 16⟩, ⟨4, 17⟩]⟩ ⟨24, [⟨4, 12⟩, ⟨4, 13⟩]⟩ ++
  isoVersion ⟨18, [⟨2, 68⟩, ⟨2, 69⟩]⟩ ⟨26, [⟨4, 43⟩, ⟨1, 44⟩]⟩
    ⟨24, [⟨6, 19⟩, ⟨2, 20⟩]⟩ ⟨28, [⟨6, 15⟩, ⟨2, 16⟩]⟩

/-- Versions 11 to 20 of the default VEC_TABLE (R48). -/
def isoVersions1 : List VecEntry :=
  isoVersion ⟨20, [⟨4, 81⟩]⟩ ⟨30, [⟨1, 50⟩, ⟨4, 51⟩]⟩
    ⟨28, [⟨4, 22⟩, ⟨4, 23⟩]⟩ ⟨24, [⟨3, 12⟩, ⟨8, 13⟩]⟩ ++
  isoVersion ⟨24, [⟨2, 92⟩, ⟨2, 93⟩]⟩ ⟨22, [⟨6, 36⟩, ⟨2, 37⟩]⟩
    ⟨26, [⟨4, 20⟩, ⟨6, 21⟩]⟩ ⟨28, [⟨7, 14⟩, ⟨4, 15⟩]⟩ ++
  isoVersion ⟨26, [⟨4, 107⟩]⟩ ⟨22, [⟨8, 37⟩, ⟨1, 38⟩]⟩
    ⟨24, [⟨8, 20⟩, ⟨4, 21⟩]⟩ ⟨22, [⟨12, 11⟩, ⟨4, 12⟩]⟩ ++
  isoVersion ⟨30, [⟨3, 115⟩, ⟨1, 116⟩]⟩ ⟨24, [⟨4, 40⟩, ⟨5, 41⟩]⟩
    ⟨20, [⟨11, 16⟩, ⟨5, 17⟩]⟩ ⟨24, [⟨11, 12⟩, ⟨5, 13⟩]⟩ ++
  isoVersion ⟨22, [⟨5, 87⟩, ⟨1, 88⟩]⟩ ⟨24, [⟨5, 41⟩, ⟨5, 42⟩]⟩
    ⟨30, [⟨5, 24⟩, ⟨7, 25⟩]⟩ ⟨24, [⟨11, 12⟩, ⟨7, 13⟩]⟩ ++
  isoVersion ⟨24, [⟨5, 98⟩, ⟨1, 99⟩]⟩ ⟨28, [⟨7, 45⟩, ⟨3, 46⟩]⟩
    ⟨24, [⟨15, 19⟩, ⟨2, 20⟩]⟩ ⟨30, [⟨3, 15⟩, ⟨13, 16⟩]⟩ ++
  isoVersion ⟨28, [⟨1, 107⟩, ⟨5, 108⟩]⟩ ⟨28, [⟨10, 46⟩, ⟨1, 47⟩]⟩
    ⟨28, [⟨1, 22⟩, ⟨15, 23⟩]⟩ ⟨28, [⟨2, 14⟩, ⟨17, 15⟩]⟩ ++
  isoVersion ⟨30, [⟨5, 120⟩, ⟨1, 121⟩]⟩ ⟨26, [⟨9, 43⟩, ⟨4, 44⟩]⟩
    ⟨28, [⟨17, 22⟩, ⟨1, 23⟩]⟩ ⟨28, [⟨2, 14⟩, ⟨19, 15⟩]⟩ ++
  isoVersion ⟨28, [⟨3, 113⟩, ⟨4, 114⟩]⟩ ⟨26, [⟨3, 44⟩, ⟨11, 45⟩]⟩
    ⟨26, [⟨17, 21⟩, ⟨4, 22⟩]⟩ ⟨26, [⟨9, 13⟩, ⟨16, 14⟩]⟩ ++
  isoVersion ⟨28, [⟨3, 107⟩, ⟨5, 108⟩]⟩ ⟨26, [⟨3, 41⟩, ⟨13, 42⟩]⟩
    ⟨30, [⟨15, 24⟩, ⟨5, 25⟩]⟩ ⟨28, [⟨15, 15⟩, ⟨10, 16⟩]⟩

/-- Versions 21 to 30 of the default VEC_TABLE (R48). -/
def isoVersions2 : List VecEntry :=
  isoVersion ⟨28, [⟨4, 116⟩, ⟨4, 117⟩]⟩ ⟨26, [⟨17, 42⟩]⟩
    ⟨28, [⟨17, 22⟩, ⟨6, 23⟩]⟩ ⟨30, [⟨19, 16⟩, ⟨6, 17⟩]⟩ ++
  isoVersion ⟨28, [⟨2, 111⟩, ⟨7, 112⟩]⟩ ⟨28, [⟨17, 46⟩]⟩
    ⟨30, [⟨7, 24⟩, ⟨16, 25⟩]⟩ ⟨24, [⟨34, 13⟩]⟩ ++
  isoVersion ⟨30, [⟨4, 121⟩, ⟨5, 122⟩]⟩ ⟨28, [⟨4, 47⟩, ⟨14, 48⟩]⟩
    ⟨30, [⟨11, 24⟩, ⟨14, 25⟩]⟩ ⟨30, [⟨16, 15⟩, ⟨14, 16⟩]⟩ ++
  isoVersion ⟨30, [⟨6, 117⟩, ⟨4, 118⟩]⟩ ⟨28, [⟨6, 45⟩, ⟨14, 46⟩]⟩
    ⟨30, [⟨11, 24⟩, ⟨16, 25⟩]⟩ ⟨30, [⟨30, 16⟩, ⟨2, 17⟩]⟩ ++
  isoVersion ⟨26, [⟨8, 106⟩, ⟨4, 107⟩]⟩ ⟨28, [⟨8, 47⟩, ⟨13, 48⟩]⟩
    ⟨30, [⟨7, 24⟩, ⟨22, 25⟩]⟩ ⟨30, [⟨22, 15⟩, ⟨13, 16⟩]⟩ ++
  isoVersion ⟨28, [⟨10, 114⟩, ⟨2, 115⟩]⟩ ⟨28, [⟨19, 46⟩, ⟨4, 47⟩]⟩
    ⟨28, [⟨28, 22⟩, ⟨6, 23⟩]⟩ ⟨30, [⟨33, 16⟩, ⟨4, 17⟩]⟩ ++
  isoVersion ⟨30, [⟨8, 122⟩, ⟨4, 123⟩]⟩ ⟨28, [⟨22, 45⟩, ⟨3, 46⟩]⟩
    ⟨30, [⟨8, 23⟩, ⟨26, 24⟩]⟩ ⟨30, [⟨12, 15⟩, ⟨28, 16⟩]⟩ ++
  isoVersion ⟨30, [⟨3, 117⟩, ⟨10, 118⟩]⟩ ⟨28, [⟨3, 45⟩, ⟨23, 46⟩]⟩
    ⟨30, [⟨4, 24⟩, ⟨31, 25⟩]⟩ ⟨30, [⟨11, 15⟩, ⟨31, 16⟩]⟩ ++
  isoVersion ⟨30, [⟨7, 116⟩, ⟨7, 117⟩]⟩ ⟨28, [⟨21, 45⟩, ⟨7, 46⟩]⟩
    ⟨30, [⟨1, 23⟩, ⟨37, 24⟩]⟩ ⟨30, [⟨19, 15⟩, ⟨26, 16⟩]⟩ ++
  isoVersion ⟨30, [⟨5, 115⟩, ⟨10, 116⟩]⟩ ⟨28, [⟨19, 47⟩, ⟨10, 48⟩]⟩
    ⟨30, [⟨15, 24⟩, ⟨25, 25⟩]⟩ ⟨30, [⟨23, 15⟩, ⟨25, 16⟩]⟩

/-- Versions 31 to 40 of the default VEC_TABLE (R48). -/
def isoVersions3 : List VecEntry :=
  isoVersion ⟨30, [⟨13, 115⟩, ⟨3, 116⟩]⟩ ⟨28, [⟨2, 46⟩, ⟨29, 47⟩]⟩
    ⟨30, [⟨42, 24⟩, ⟨1, 25⟩]⟩ ⟨30, [⟨23, 15⟩, ⟨28, 16⟩]⟩ ++
  isoVersion ⟨30, [⟨17, 115⟩]⟩ ⟨28, [⟨10, 46⟩, ⟨23, 47⟩]⟩
    ⟨30, [⟨10, 24⟩, ⟨35, 25⟩]⟩ ⟨30, [⟨19, 15⟩, ⟨35, 16⟩]⟩ ++
  isoVersion ⟨30, [⟨17, 115⟩, ⟨1, 116⟩]⟩ ⟨28, [⟨14, 46⟩, ⟨21, 47⟩]⟩
    ⟨30, [⟨29, 24⟩, ⟨19, 25⟩]⟩ ⟨30, [⟨11, 15⟩, ⟨46, 16⟩]⟩ ++
  isoVersion ⟨30, [⟨13, 115⟩, ⟨6, 116⟩]⟩ ⟨28, [⟨14, 46⟩, ⟨23, 47⟩]⟩
    ⟨30, [⟨44, 24⟩, ⟨7, 25⟩]⟩ ⟨30, [⟨59, 16⟩, ⟨1, 17⟩]⟩ ++
  isoVersion ⟨30, [⟨12, 121⟩, ⟨7, 122⟩]⟩ ⟨28, [⟨12, 47⟩, ⟨26, 48⟩]⟩
    ⟨30, [⟨39, 24⟩, ⟨14, 25⟩]⟩ ⟨30, [⟨22, 15⟩, ⟨41, 16⟩]⟩ ++
  isoVersion ⟨30, [⟨6, 121⟩, ⟨14, 122⟩]⟩ ⟨28, [⟨6, 47⟩, ⟨34, 48⟩]⟩
    ⟨30, [⟨46, 24⟩, ⟨10, 25⟩]⟩ ⟨30, [⟨2, 15⟩, ⟨64, 16⟩]⟩ ++
  isoVersion ⟨30, [⟨17, 122⟩, ⟨4, 123⟩]⟩ ⟨28, [⟨29, 46⟩, ⟨14, 47⟩]⟩
    ⟨30, [⟨49, 24⟩, ⟨10, 25⟩]⟩ ⟨30, [⟨24, 15⟩, ⟨46, 16⟩]⟩ ++
  isoVersion ⟨30, [⟨4, 122⟩, ⟨18, 123⟩]⟩ ⟨28, [⟨13, 46⟩, ⟨32, 47⟩]⟩
    ⟨30, [⟨48, 24⟩, ⟨14, 25⟩]⟩ ⟨30, [⟨42, 15⟩, ⟨32, 16⟩]⟩ ++
  isoVersion ⟨30, [⟨20, 117⟩, ⟨4, 118⟩]⟩ ⟨28, [⟨40, 47⟩, ⟨7, 48⟩]⟩
    ⟨30, [⟨43, 24⟩, ⟨22, 25⟩]⟩ ⟨30, [⟨10, 15⟩, ⟨67, 16⟩]⟩ ++
  isoVersion ⟨30, [⟨19, 118⟩, ⟨6, 119⟩]⟩ ⟨28, [⟨18, 47⟩, ⟨31, 48⟩]⟩
    ⟨30, [⟨34, 24⟩, ⟨34, 25⟩]⟩ ⟨30, [⟨20, 15⟩, ⟨61, 16⟩]⟩

/-- The default VEC_TABLE: entry 4·(v−1) + EC_LEVEL is version v at that level. PRESUMED: the ISO table of R48, which
only its entry v1-L has the source behind it (93 G2). Unsafe: another part may hold another table. Log 5. -/
def isoVecTable : List VecEntry := isoVersions0 ++ isoVersions1 ++ isoVersions2 ++ isoVersions3

/-- The codewords of a symbol of each version, "the number of data modules of the version divided by 8, rounded down"
(10_state.md R48), data and EC together. PRESUMED: the module counts are general knowledge, as the table is. Unsafe in the
same way. Log 18. -/
def isoCodewords : List Nat :=
  [26, 44, 70, 100, 134, 172, 196, 242, 292, 346, 404, 466, 532, 581, 655, 733, 815, 901, 991, 1085] ++
  [1156, 1258, 1364, 1474, 1588, 1706, 1828, 1921, 2051, 2185, 2323, 2465, 2611, 2761, 2876, 3034, 3196, 3362, 3532, 3706]

/-- The entries of VEC_TABLE (R47, R48). -/
def vecEntries : VecTable → List VecEntry
  | .iso         => isoVecTable
  | .custom es _ => es

/-- The known total of data codewords of every entry (41_deinterleave.md R181): those that a table brings with it, and for
the default what the version's codewords leave beside E, since "this spec checks the default table's D+E". -/
def vecKnownTotals : VecTable → List Nat
  | .iso         => isoVecTable.zipIdx.map fun p => isoCodewords.getD (p.2 / 4) 0 - p.1.ecTotal
  | .custom _ ts => ts

/-- VEC_TABLE meets 00_scope.md R9 and 41_deinterleave.md R181. -/
abbrev VecTableLegal (t : VecTable) : Prop := VecTableWf (vecEntries t) ∧ TotalsAgree (vecEntries t) (vecKnownTotals t)

/-- Whether VEC_TABLE is legal. The default is ("The ISO default satisfies all four", R9; R48 for its totals), which is
`isoVecTable_legal` of Laws/Geometry.lean; another table is examined. -/
def vecTableOk : VecTable → Bool
  | .iso          => true
  | .custom es ts => decide (VecTableWf es ∧ TotalsAgree es ts)

/-- The default mask predicates, x the column and y the row. PRESUMED: the formulas of R144 are general knowledge (93 G1).
Unsafe: another part may take others. Log 6. -/
def isoMask (m : BitVec 3) (x y : Nat) : Bool :=
  match m.toNat with
  | 0 => (y + x) % 2 == 0
  | 1 => y % 2 == 0
  | 2 => x % 3 == 0
  | 3 => (y + x) % 3 == 0
  | 4 => (y / 2 + x / 3) % 2 == 0
  | 5 => (y * x) % 2 + (y * x) % 3 == 0
  | 6 => ((y * x) % 2 + (y * x) % 3) % 2 == 0
  | _ => ((y + x) % 2 + (y * x) % 3) % 2 == 0

/-- mask_m(x, y) under the parameter MASK_FN (R144). -/
def maskBit (f : MaskFn) (m : BitVec 3) (x y : Nat) : Bool :=
  match f with
  | .iso    => isoMask m x y
  | .custom => Config.customMask m x y

end Sys2Proof.Machine
end

