-- ==== Sys2Proof/Machine/State.lean ====
section
/-! DEFINITION. The state of QRRS-CORE as plain data (10_state.md R30), the reasons a step can stop, and the state after a
hardware reset (R63). ID, GEOM, GROUP0, GROUP1, TOTALS, irq and the field tables are constants or views (R31, R45, R46,
R50, 60_exceptions.md R296), so they are functions elsewhere and no fields here. -/

namespace Sys2Proof.Machine

/-- The error codes that a completion can write (60_exceptions.md R290). The codes 0x0A–0xFF are never written (93 V3). -/
inductive ErrCode where
  | none
  | badCmd
  | badVersion
  | badValue
  | shortStream
  | badBlock
  | badErasure
  | uncorrectable
  | divZero
  | logZero
  deriving DecidableEq, Repr

/-- The fields of STATUS (10_state.md R33). -/
structure Status where
  busy    : Bool
  done    : Bool
  err     : Bool
  syndNz  : Bool
  busErr  : Bool
  errCode : ErrCode
  deriving DecidableEq, Repr

/-- The other registers, each with the bits R32 and R34 to R44 define; all other bits read 0 (R51). -/
structure Regs where
  /-- CTRL[0] IE (R32). -/
  ie         : Bool
  /-- CMD_LAST, what a read of CMD returns (R34). -/
  cmdLast    : Word
  /-- VERSION[5:0] (R35). -/
  version    : BitVec 6
  /-- EC_LEVEL[1:0] (R36). -/
  ecLevel    : BitVec 2
  /-- MASK_ID[2:0] (R37). -/
  maskId     : BitVec 3
  /-- BIT_COUNT[15:0] (R38). -/
  bitCount   : BitVec 16
  /-- TRACE_COUNT[15:0] (R39). -/
  traceCount : BitVec 16
  /-- ERASE_COUNT[8:0] (R40). -/
  eraseCount : BitVec 9
  /-- GF_A[7:0] (R41). -/
  gfA        : Elem
  /-- GF_B[15:0] (R42). -/
  gfB        : BitVec 16
  /-- GF_R[7:0] (R43). -/
  gfR        : Elem
  /-- FAIL_COUNT[7:0] (R44). -/
  failCount  : BitVec 8
  deriving DecidableEq, Repr

/-- What is fixed at manufacture: VEC_TABLE (R47) and the parameter MASK_FN (40_traversal.md R144). Nothing writes it. -/
structure Rom where
  vecTable : VecTable
  maskFn   : MaskFn
  deriving DecidableEq, Repr

/-- The seven internal memories in one list of written bytes by byte address (20_memory.md R82, R83): addresses strictly
rise, and an address that is not listed is unwritten (R63). -/
abbrev Memory := List Host.Cell

/-- A transaction of the host port (20_memory.md R80); `be` are its four byte enables (R81). -/
inductive Transaction where
  | read  (addr : Addr) (be : BitVec 4)
  | write (addr : Addr) (be : BitVec 4) (v : Word)
  deriving DecidableEq, Repr

/-- A move of one of the two agents (00_scope.md R10): a transaction of the host, or the turn of the command engine. -/
inductive Move where
  | port (t : Transaction)
  | engine
  deriving DecidableEq, Repr

/-- The state of QRRS-CORE (10_state.md R30) and the three fields of the model's own. -/
structure State where
  /-- STATUS (R33). -/
  status  : Status
  /-- The other registers (R32, R34–R44). -/
  regs    : Regs
  /-- The hidden latch PENDING (R34, R59). -/
  pending : Word
  /-- ERASURE, SYND, BSTAT, MOD, BITS, TRACE and BLK (R52–R58). -/
  mem     : Memory
  /-- The read-only tables that are parameters (R47, 40_traversal.md R144). -/
  rom     : Rom
  /-- The model's own: the moves still to come, in the one total order of 20_memory.md R91. Log 1. -/
  inputs  : List Move
  /-- The model's own: what the host's reads have returned, newest first (20_memory.md R80). Log 9. -/
  reads   : List Word
  /-- The model's own: the number of the next draw (R63, 20_memory.md R87). Log 10. -/
  draws   : Nat
  deriving DecidableEq, Repr

/-- Reasons to stop with a fault. There is none: every transaction completes (20_memory.md R80), every command ends in a
completion (60_exceptions.md R292), and an illegal word does too (30_encoding.md R113). -/
inductive Fault where
  deriving DecidableEq, Repr

/-- Reasons to refuse a step. -/
inductive Refusal where
  /-- Raised by an arm of `exec` for an instruction without a meaning. Safe: nothing is claimed of it. -/
  | notModelled (mnemonic : String)
  /-- Raised by `step` in a state whose VEC_TABLE breaks 00_scope.md R9 ("a model refuses a table that breaks any of
  them") or 41_deinterleave.md R181 (D "must equal the version's known total"). Safe: the spec gives such a table no
  machine. -/
  | badVecTable
  deriving DecidableEq, Repr

/-- The outcome of a step of this machine. -/
abbrev Result := Host.Outcome State Fault Refusal

/-- STATUS after reset: 0x0000_0000 (R63). -/
def Status.reset : Status :=
  { busy := false, done := false, err := false, syndNz := false, busErr := false, errCode := .none }

/-- Every register's value after reset (R63). -/
def Regs.reset : Regs :=
  { ie := false, cmdLast := 0, version := 0, ecLevel := 0, maskId := 0, bitCount := 0, traceCount := 0,
    eraseCount := 0, gfA := 0, gfB := 0, gfR := 0, failCount := 0 }

/-- The machine right after a hardware reset (R63, 70_reset_and_hazards.md R330): every register at its reset value, every
memory entry unwritten. PENDING is unspecified there: DESIGN CHOICE 0 (log 4). The tables are the spec's defaults (logs 5
and 6). No host move is waiting (log 1). -/
def State.reset : State :=
  { status := Status.reset, regs := Regs.reset, pending := 0, mem := [],
    rom := { vecTable := .iso, maskFn := .iso }, inputs := [], reads := [], draws := 0 }

end Sys2Proof.Machine
end

