-- ==== Sys2Proof/Machine/Flags.lean ====
section
/-! DEFINITION. The status flags and the words that carry flags: the error codes' values (60_exceptions.md R290), STATUS as
the port reads and writes it (10_state.md R33), the flags that acceptance and completion write (R34, R292), the interrupt
line (R296), and the per-block status entry (R58). -/

namespace Sys2Proof.Machine

/-- The value of an error code (60_exceptions.md R290). -/
def errByte : ErrCode → BitVec 8
  | .none          => 0x00
  | .badCmd        => 0x01
  | .badVersion    => 0x02
  | .badValue      => 0x03
  | .shortStream   => 0x04
  | .badBlock      => 0x05
  | .badErasure    => 0x06
  | .uncorrectable => 0x07
  | .divZero       => 0x08
  | .logZero       => 0x09

/-- A bit placed at position `n` of a word. -/
def bitAt (b : Bool) (n : Nat) : Word := (BitVec.ofBool b).setWidth 32 <<< n

/-- What a read of STATUS returns (10_state.md R33): BUSY[0] DONE[1] ERR[2] SYND_NZ[3] BUSERR[4] ERRCODE[15:8]. -/
def statusWord (st : Status) : Word :=
  bitAt st.busy 0 ||| bitAt st.done 1 ||| bitAt st.err 2 ||| bitAt st.syndNz 3 ||| bitAt st.busErr 4 |||
    ((errByte st.errCode).setWidth 32 <<< 8)

/-- A host write of `v` to STATUS clears each W1C bit written as 1 and leaves every other bit unchanged (R33). This is the
host's acknowledgement, the analogue of trap return (60_exceptions.md R297). -/
def statusAcknowledge (v : Word) (st : Status) : Status :=
  { st with
    done   := st.done && !v.getLsbD 1
    err    := st.err && !v.getLsbD 2
    busErr := st.busErr && !v.getLsbD 4 }

/-- STATUS at the acceptance of a command (R34): BUSY set, DONE cleared. -/
def statusAccept (st : Status) : Status := { st with busy := true, done := false }

/-- STATUS at a completion with `code` (60_exceptions.md R292): BUSY cleared, DONE set, ERRCODE written, ERR set by an error
and otherwise kept. -/
def statusComplete (code : ErrCode) (st : Status) : Status :=
  { st with
    busy    := false
    done    := true
    errCode := code
    err     := st.err || code != .none }

/-- The interrupt line: irq = CTRL.IE ∧ STATUS.DONE (60_exceptions.md R296). -/
def irq (s : State) : Bool := s.regs.ie && s.status.done

/-- A BSTAT entry {CODE[7:0], SNZ[8], NU[24:16]} (10_state.md R58, 43_reed_solomon.md R254). -/
def bstatWord (code : ErrCode) (snz : Bool) (nu : Nat) : Word :=
  (errByte code).setWidth 32 ||| bitAt snz 8 ||| ((BitVec.ofNat 9 nu).setWidth 32 <<< 16)

end Sys2Proof.Machine
end

