-- ==== Sys2Proof/Machine/Ops.lean ====
section
/-! DEFINITION. The named operations over memory and registers: bytes, words and entries of the internal memories
(20_memory.md R82–R84, R90), the updates of State, the acceptance of a command (10_state.md R34), its completion (the
analogue of taking an exception, 60_exceptions.md R292, R293), and the hardware reset (70_reset_and_hazards.md R330). -/

namespace Sys2Proof.Machine

/-! ### Bytes -/

/-- The canonical form of a memory: its addresses strictly rise. An unlisted address has no value, so no listed entry can
equal what an unlisted one reads as. -/
abbrev Memory.wf (m : Memory) : Prop := m.Pairwise fun a b => a.1 < b.1

/-- The byte written at `a`, if any. -/
def getByte : Memory → Nat → Option (BitVec 8)
  | [],          _ => none
  | (b, v) :: m, a => if b = a then some v else getByte m a

/-- Write the byte at `a`, keeping the canonical form. -/
def setByte : Memory → Nat → BitVec 8 → Memory
  | [],          a, v => [(a, v)]
  | (b, w) :: m, a, v =>
    if a < b then (a, v) :: (b, w) :: m
    else if a = b then (a, v) :: m
    else (b, w) :: setByte m a v

/-- The byte at `a` as draw number `d` sees it: what was last written there, or a free value (10_state.md R63). -/
def readByte (d : Nat) (m : Memory) (a : Nat) : BitVec 8 := (getByte m a).getD (Config.freeByte d a)

/-- Byte `i` of a word (20_memory.md R82). -/
def byteOf (v : Word) (i : Nat) : BitVec 8 := v.extractLsb' (8 * i) 8

/-- The word at `a`: the byte at a + i is bits [8i+7:8i] (20_memory.md R82). -/
def readWord (d : Nat) (m : Memory) (a : Nat) : Word :=
  readByte d m (a + 3) ++ readByte d m (a + 2) ++ readByte d m (a + 1) ++ readByte d m a

/-- Write the word at `a` in the same byte order (20_memory.md R82). -/
def writeWord (m : Memory) (a : Nat) (v : Word) : Memory :=
  setByte (setByte (setByte (setByte m a (byteOf v 0)) (a + 1) (byteOf v 1)) (a + 2) (byteOf v 2)) (a + 3) (byteOf v 3)

/-! ### Windows and entries -/

/-- The seven memories (10_state.md R52–R58). -/
inductive Window where
  | erasure | synd | bstat | mod | bits | trace | blk
  deriving DecidableEq, Repr

/-- All windows, in the order of the map (20_memory.md R83). -/
def windows : List Window := [.erasure, .synd, .bstat, .mod, .bits, .trace, .blk]

/-- A window's first byte address (20_memory.md R83). -/
def windowBase : Window → Nat
  | .erasure => 0x00400
  | .synd    => 0x00800
  | .bstat   => 0x00C00
  | .mod     => 0x40000
  | .bits    => 0x80000
  | .trace   => 0xA0000
  | .blk     => 0xC0000

/-- A window's number of entries (20_memory.md R83, 00_scope.md R8). -/
def windowSize : Window → Nat
  | .erasure => 256
  | .synd    => 256
  | .bstat   => 128
  | .mod     => 65536
  | .bits    => 32768
  | .trace   => 32768
  | .blk     => 32768

/-- Whether the host may write a window (20_memory.md R83, R86). -/
def windowWritable : Window → Bool
  | .erasure => true
  | .synd    => false
  | .bstat   => false
  | .mod     => true
  | .bits    => true
  | .trace   => false
  | .blk     => true

/-- The defined bits of a window's entries (10_state.md R52–R58); the others read 0 and ignore writes (20_memory.md R84). -/
def windowMask : Window → Word
  | .erasure => 0x000000FF
  | .synd    => 0x000000FF
  | .bstat   => 0x01FF01FF
  | .mod     => 0x00000007
  | .bits    => 0x00000003
  | .trace   => 0x0001FFFF
  | .blk     => 0x000001FF

/-- The byte address of entry `i` of a window (20_memory.md R83). -/
def entryAddr (w : Window) (i : Nat) : Nat := windowBase w + 4 * i

/-- The defined fields of entry `i`, all other bits 0 (20_memory.md R84). -/
def readEntry (d : Nat) (m : Memory) (w : Window) (i : Nat) : Word := readWord d m (entryAddr w i) &&& windowMask w

/-- Store the defined fields of `v` in entry `i`, whole (20_memory.md R84, R90). -/
def writeEntry (m : Memory) (w : Window) (i : Nat) (v : Word) : Memory := writeWord m (entryAddr w i) (v &&& windowMask w)

/-- Write consecutive entries of a window, from entry `i` on. -/
def writeEntries (m : Memory) (w : Window) : Nat → List Word → Memory
  | _, []      => m
  | i, v :: vs => writeEntries (writeEntry m w i v) w (i + 1) vs

/-- The index of position `j` of block slot `k` in BLK (10_state.md R55). -/
def blkIndex (k j : Nat) : Nat := k * 256 + j

/-- The index of cell (x, y) in MOD (10_state.md R52). -/
def modIndex (x y : Nat) : Nat := y * 256 + x

/-! ### Updates of State -/

def State.setStatus (s : State) (st : Status) : State := { s with status := st }
def State.setRegs (s : State) (r : Regs) : State := { s with regs := r }
def State.setPending (s : State) (w : Word) : State := { s with pending := w }
def State.setMem (s : State) (m : Memory) : State := { s with mem := m }
def State.setInputs (s : State) (l : List Move) : State := { s with inputs := l }
def State.setDraws (s : State) (d : Nat) : State := { s with draws := d }

/-- The port returns `v` to a host read (20_memory.md R80). -/
def State.pushRead (s : State) (v : Word) : State := { s with reads := v :: s.reads }

/-- GF_R ← v (10_state.md R43). -/
def State.setGfR (s : State) (v : Elem) : State := s.setRegs { s.regs with gfR := v }

/-- STATUS.SYND_NZ ← b (10_state.md R33). -/
def State.setSyndNz (s : State) (b : Bool) : State := s.setStatus { s.status with syndNz := b }

/-- STATUS.BUSERR ← 1: the port refused an access (20_memory.md R81, R85, R87). -/
def State.setBusErr (s : State) : State := s.setStatus { s.status with busErr := true }

/-! ### Acceptance and completion -/

/-- The acceptance of command word `v` (10_state.md R34): CMD_LAST, PENDING, BUSY, DONE. -/
def acceptCommand (v : Word) (s : State) : State :=
  ((s.setRegs { s.regs with cmdLast := v }).setPending v).setStatus (statusAccept s.status)

/-- The completion of a command (60_exceptions.md R292), "the analogue of trap entry". Afterwards BUSY = 0, and what PENDING
then holds is unspecified: a free value (93 U6, log 4). The command's draws are used up (log 10). -/
def completion (code : ErrCode) (s : State) : State :=
  ((s.setStatus (statusComplete code s.status)).setPending (Config.freePending s.draws)).setDraws (s.draws + 2)

/-- `complete()` (00_scope.md R13): end the command without error. -/
def complete (s : State) : Result := .next (completion .none s)

/-- `raise Error(code)` (R13, 60_exceptions.md R293): `s` is the state at acceptance, of which only STATUS changes. -/
def raiseError (code : ErrCode) (s : State) : Result := .next (completion code s)

/-- `complete_with(E_UNCORRECTABLE)` (R13, 60_exceptions.md R293): `s` holds what the command wrote before it. -/
def completeUncorrectable (s : State) : Result := .next (completion .uncorrectable s)

/-! ### Reset -/

/-- The effect of the reset input (70_reset_and_hazards.md R330, R331): every register at its reset value, every memory
entry unwritten, a running command abandoned without completion. It is no move of `step`: "not a move of the model"
(R343, log 8). The tables are fixed, and the model's own fields go on. -/
def hardwareReset (s : State) : State :=
  { State.reset with rom := s.rom, inputs := s.inputs, reads := s.reads, draws := s.draws }

end Sys2Proof.Machine
end

