-- ==== Sys2Proof/Machine/Control.lean ====
section
/-! DEFINITION. The control commands NOP and RESET (44_control.md). -/

namespace Sys2Proof.Machine

/-- NOP: complete without doing anything (R280). -/
def execNop (s : State) : Result := complete s

/-- RESET: every register but STATUS at its reset value, STATUS 0, then complete; the memories keep their contents (R281). -/
def execReset (s : State) : Result := complete ((s.setRegs Regs.reset).setStatus Status.reset)

end Sys2Proof.Machine
end

