-- ==== Sys2Proof/Machine/Galois.lean ====
section
/-! DEFINITION. The field primitives (42_galois.md R200–R206) and the polynomial primitives (R207–R210). An operation the
spec leaves undefined on some operand answers `none` there, never a value. Exponents are unbounded integers reduced mod
255 into 0..254 (R212). A polynomial is a list, most significant coefficient first (00_scope.md R12). -/

namespace Sys2Proof.Machine

/-! ### The field -/

/-- EXP[i] for 0 ≤ i ≤ 254 (R200). -/
def expByte (i : Nat) : Elem := BitVec.ofNat 8 (romByte expRows i)

/-- `gf_exp(i) = EXP[i mod 255]` for any integer i (R200). -/
def gfExp (i : Int) : Elem := expByte (i % 255).toNat

/-- `gf_log(a) = LOG[a]` for a ≠ 0; LOG[0] is undefined (R201). -/
def gfLog (a : Elem) : Option Nat := if a = 0 then none else some (romByte logRows a.toNat)

/-- `gf_add(a, b) = a ⊕ b`, which is also subtraction (R202). -/
def gfAdd (a b : Elem) : Elem := a ^^^ b

/-- Multiplication, 0 when an operand is 0 (R203). -/
def gfMul (a b : Elem) : Elem :=
  match gfLog a, gfLog b with
  | some x, some y => gfExp (x + y)
  | _,      _      => 0

/-- Division; `x / 0` is undefined (R204). -/
def gfDiv (a b : Elem) : Option Elem :=
  match gfLog a, gfLog b with
  | _,      none   => none
  | none,   some _ => some 0
  | some x, some y => some (gfExp (x - y))

/-- `gf_inv(a) = gf_div(1, a)`, undefined for 0 (R205). -/
def gfInv (a : Elem) : Option Elem := gfDiv 1 a

/-- `gf_pow(a, e) = EXP[(LOG[a] · e) mod 255]` for any integer e, undefined for a = 0 (R206). -/
def gfPow (a : Elem) (e : Int) : Option Elem := (gfLog a).map fun x => gfExp (x * e)

/-! ### Polynomials -/

/-- Zeros put on the most significant side up to length `n` (R207). -/
def padFront (n : Nat) (p : List Elem) : List Elem := List.replicate (n - p.length) 0 ++ p

/-- Addition: the shorter operand is padded on the most significant side (R207). -/
def polyAdd (p q : List Elem) : List Elem :=
  let n := max p.length q.length
  List.zipWith gfAdd (padFront n p) (padFront n q)

/-- Multiplication: convolution, length len P + len Q − 1 (R208). Each coefficient Q[j] adds P·Q[j] from position j on. -/
def polyMul (p : List Elem) : List Elem → List Elem
  | []     => List.replicate (p.length - 1) 0
  | c :: q => List.zipWith gfAdd (p.map (fun a => gfMul a c) ++ List.replicate q.length 0) (0 :: polyMul p q)

/-- Evaluation by Horner's method (R209), for a list with a first coefficient. -/
def polyEval (p : List Elem) (x : Elem) : Elem :=
  match p with
  | []     => 0
  | c :: q => q.foldl (fun y a => gfAdd (gfMul y x) a) c

/-- Add `q` to the first coefficients of `p`, in place; what of `p` lies beyond `q` stays. -/
def addInto : List Elem → List Elem → List Elem
  | p,      []     => p
  | [],     _      => []
  | a :: p, b :: q => gfAdd a b :: addInto p q

/-- `steps` rounds of synthetic long division by `lead` and the further coefficients `rest` (R210): divide the leading
coefficient, then subtract that multiple of the divisor from the coefficients after it. Answers quotient and remainder. -/
def polyDivSteps (lead : Elem) (rest : List Elem) : Nat → List Elem → Option (List Elem × List Elem)
  | 0,         out      => some ([], out)
  | _ + 1,     []       => some ([], [])
  | steps + 1, a :: out =>
    match gfDiv a lead with
    | none   => none
    | some c =>
      match polyDivSteps lead rest steps (addInto out (rest.map fun b => gfMul b c)) with
      | none            => none
      | some (quo, rem) => some (c :: quo, rem)

/-- Division: quotient and remainder, the remainder of len Dv − 1 coefficients (R210). The divisor must have a non-zero
leading coefficient; without one the operation is undefined. DESIGN CHOICE: for a dividend with len Dd < len Dv − 1, where
R210's slices would start at a negative index and it states no remainder length, the quotient is [] and the remainder Dd;
no command divides such a dividend (43_reed_solomon.md R248). Unsafe for a claim about such operands. Log 15. -/
def polyDiv (dd dv : List Elem) : Option (List Elem × List Elem) :=
  match dv with
  | []           => none
  | lead :: rest => if lead = 0 then none else polyDivSteps lead rest (dd.length - rest.length) dd

end Sys2Proof.Machine
end

