-- ==== Sys2Proof/Machine/Geometry.lean ====
section
/-! DEFINITION. The geometry function (10_state.md R49) and its views GEOM, GROUP0, GROUP1 and TOTALS (R45, R46). -/

namespace Sys2Proof.Machine

/-- What R49 computes from VERSION and EC_LEVEL: N, e and the two groups, an absent one with no blocks. -/
structure Geometry where
  size   : Nat
  ec     : Nat
  group0 : Group
  group1 : Group
  deriving DecidableEq, Repr

/-- NB = b0 + b1 (R49). -/
def Geometry.blocks (g : Geometry) : Nat := g.group0.blockCount + g.group1.blockCount

/-- D = b0·d0 + b1·d1 (R49). -/
def Geometry.dataTotal (g : Geometry) : Nat :=
  g.group0.blockCount * g.group0.codewords + g.group1.blockCount * g.group1.codewords

/-- E = NB·e (R49). -/
def Geometry.ecTotal (g : Geometry) : Nat := g.blocks * g.ec

/-- d(k), the data codewords of block k (R49). -/
def Geometry.dataLen (g : Geometry) (k : Nat) : Nat :=
  if k < g.group0.blockCount then g.group0.codewords else g.group1.codewords

/-- n(k) = d(k) + e (R49). -/
def Geometry.blockLen (g : Geometry) (k : Nat) : Nat := g.dataLen k + g.ec

/-- N = 4·v + 17 (00_scope.md R8, R49). -/
def symbolSize (version : BitVec 6) : Nat := 4 * version.toNat + 17

/-- VERSION is in 1..40 (10_state.md R35). -/
def versionOk (version : BitVec 6) : Bool := 1 ≤ version.toNat && version.toNat ≤ 40

/-- The entry of VEC_TABLE for a version and an EC_LEVEL code, [M, L, H, Q] (R36, R49). -/
def vecEntry (table : VecTable) (version : BitVec 6) (level : BitVec 2) : VecEntry :=
  (vecEntries table).getD (4 * (version.toNat - 1) + level.toNat) ⟨0, []⟩

/-- `geom(VERSION, EC_LEVEL)`, defined only for a valid version (R49). -/
def geometry (s : State) : Option Geometry :=
  if versionOk s.regs.version then
    let ent := vecEntry s.rom.vecTable s.regs.version s.regs.ecLevel
    some { size := symbolSize s.regs.version, ec := ent.ec, group0 := ent.groups.getD 0 ⟨0, 0⟩, group1 := ent.groups.getD 1 ⟨0, 0⟩ }
  else none

/-- A number placed in bits [hi:lo] of a register view, lo = `at'` and the field `width` bits wide. -/
def fieldAt (width at' n : Nat) : Word := (BitVec.ofNat width n).setWidth 32 <<< at'

/-- GEOM: N[7:0], NB[15:8], e[23:16]; 0 for an invalid version (R45). -/
def geomWord (s : State) : Word :=
  match geometry s with
  | none   => 0
  | some g => fieldAt 8 0 g.size ||| fieldAt 8 8 g.blocks ||| fieldAt 8 16 g.ec

/-- The 8-bit field that holds codewordsPerBlock (R46). Only a group without blocks can exceed it in a table that meets
00_scope.md R9, and what the field then reads is not stated: a free value (log 13). -/
def codewordsField (n : Nat) : BitVec 8 := if n < 256 then BitVec.ofNat 8 n else Config.wideCodewords n

/-- GROUPg: blockCount[7:0], codewordsPerBlock[15:8] (R46). -/
def groupWord (g : Group) : Word := fieldAt 8 0 g.blockCount ||| ((codewordsField g.codewords).setWidth 32 <<< 8)

/-- GROUP0 (R46). -/
def group0Word (s : State) : Word :=
  match geometry s with
  | none   => 0
  | some g => groupWord g.group0

/-- GROUP1 (R46); an absent group reads 0. -/
def group1Word (s : State) : Word :=
  match geometry s with
  | none   => 0
  | some g => groupWord g.group1

/-- TOTALS: D[15:0], E[31:16] (R46). -/
def totalsWord (s : State) : Word :=
  match geometry s with
  | none   => 0
  | some g => fieldAt 16 0 g.dataTotal ||| fieldAt 16 16 g.ecTotal

end Sys2Proof.Machine
end

