-- ==== Sys2Proof/Machine/Operands.lean ====
section
/-! DEFINITION. Every operand form of the commands (30_encoding.md R111): the field elements and exponents of GF_A and
GF_B, the geometry with its version check, the block operand k with its check, the entries of the memories as typed
values, and the two forms of the erasure list (43_reed_solomon.md R243, R244). -/

namespace Sys2Proof.Machine

/-! ### Field operands -/

/-- GF_A[7:0] as a field element (10_state.md R41). -/
def elemA (s : State) : Elem := s.regs.gfA

/-- GF_B[7:0] as a field element; GF_B[15:8] is ignored (R42). -/
def elemB (s : State) : Elem := s.regs.gfB.setWidth 8

/-- `sext_16(GF_B[15:0])`, the signed exponent of GF_POW (R42, 30_encoding.md R111). -/
def exponentB (s : State) : Int := s.regs.gfB.toInt

/-- GF_A[7:0] as the unsigned exponent of GF_EXP (42_galois.md R218). -/
def exponentA (s : State) : Nat := s.regs.gfA.toNat

/-! ### Checks in the order of 60_exceptions.md R294 -/

/-- The first check of every geometry command: VERSION in 1..40, else E_BAD_VERSION (R294). -/
def withGeometry (s : State) (run : Geometry → Result) : Result :=
  match geometry s with
  | none   => raiseError .badVersion s
  | some g => run g

/-- The block operand k of SYNDROME, CORRECT and POLY_EVAL: k < NB, else E_BAD_BLOCK (43_reed_solomon.md R240, R294). -/
def withBlock (k : BitVec 8) (s : State) (run : Geometry → Result) : Result :=
  withGeometry s fun g => if k.toNat < g.blocks then run g else raiseError .badBlock s

/-! ### Entries of the memories -/

/-- A MOD cell: the module value's code and the skip bit (10_state.md R52). -/
structure ModCell where
  val  : TriCode
  skip : Bool
  deriving DecidableEq, Repr

/-- A BLK entry: the unknown flag and the codeword value (10_state.md R55). -/
structure Codeword where
  u   : Bool
  val : Elem
  deriving DecidableEq, Repr

/-- The fields of a MOD word: VAL[1:0], SKIP[2] (R52). -/
def modCellOf (v : Word) : ModCell := { val := v.extractLsb' 0 2, skip := v.getLsbD 2 }

/-- MOD[x, y] as draw number `d` sees it. -/
def modCell (d : Nat) (m : Memory) (x y : Nat) : ModCell := modCellOf (readEntry d m .mod (modIndex x y))

/-- The code of BITS[i] as draw number `d` sees it (R53). -/
def bitCode (d : Nat) (m : Memory) (i : Nat) : TriCode := (readEntry d m .bits i).extractLsb' 0 2

/-- The fields of a BLK word: VAL[7:0], U[8] (R55). -/
def codewordOf (v : Word) : Codeword := { u := v.getLsbD 8, val := v.extractLsb' 0 8 }

/-- The BLK word of a codeword: `VAL | U << 8` (R55). -/
def codewordWord (c : Codeword) : Word := c.val.setWidth 32 ||| bitAt c.u 8

/-- BLK[k][j] as draw number `d` sees it (R55). -/
def blkEntry (d : Nat) (m : Memory) (k j : Nat) : Codeword := codewordOf (readEntry d m .blk (blkIndex k j))

/-- The VAL fields of BLK[k][0..n−1], the received polynomial; U flags are not consulted (43_reed_solomon.md R240, R242). -/
def blockMessage (d : Nat) (m : Memory) (k n : Nat) : List Elem := (List.range n).map fun j => (blkEntry d m k j).val

/-! ### Erasure lists -/

/-- AUTO = 1: every position of the block with U = 1, in increasing order (43_reed_solomon.md R243). -/
def flaggedErasures (d : Nat) (m : Memory) (k n : Nat) : List Nat := (List.range n).filter fun j => (blkEntry d m k j).u

/-- AUTO = 0: ERAS[0..count−1].POS in memory order (43_reed_solomon.md R243). -/
def listedErasures (d : Nat) (m : Memory) (count : Nat) : List Nat :=
  (List.range count).map fun i => ((readEntry d m .erasure i).extractLsb' 0 8).toNat

/-- The erasure list of CORRECT for a block of length n, or none where R244 raises E_BAD_ERASURE: a count above
ERASURE_CAP = 256, then a position that is no position of the block. -/
def erasureList (auto : Bool) (k n : Nat) (s : State) : Option (List Nat) :=
  if auto then some (flaggedErasures s.draws s.mem k n)
  else if 256 < s.regs.eraseCount.toNat then none
  else
    let pos := listedErasures s.draws s.mem s.regs.eraseCount.toNat
    if pos.any fun p => n ≤ p then none else some pos

end Sys2Proof.Machine
end

