-- ==== Sys2Proof/Machine/Deinterleave.lean ====
section
/-! DEFINITION. Codeword deinterleaving (41_deinterleave.md): assembling codewords (R172, R173), the round-robin deal (R174,
R175), and DEINTERLEAVE (R170, R178, R179). -/

namespace Sys2Proof.Machine

/-- A codeword from its eight tri-state codes, the first its bit 7: unknown if any code is U, an unknown bit 0 in VAL (R172,
R173). -/
def assembleCodeword (codes : List TriCode) : Codeword :=
  { u := codes.any fun b => b == 2, val := codes.foldl (fun v b => (v <<< 1) ||| (BitVec.ofBool (b == 1)).setWidth 8) 0 }

/-- Codeword i of the bitstream, from BITS[8i..8i+7] (R172). -/
def streamCodeword (d : Nat) (m : Memory) (i : Nat) : Codeword :=
  assembleCodeword ((List.range 8).map fun q => bitCode d m (8 * i + q))

/-- The inner loop of R174: from block `k` on, wrapping, the first block that has not reached its target. `fuel` bounds the
rounds; NB of them pass every block. -/
def skipFull (nb : Nat) (target : Nat → Nat) (fill : List Nat) : (fuel : Nat) → (k : Nat) → Nat
  | 0,        k => k
  | fuel + 1, k => if fill.getD k 0 = target k then skipFull nb target fill fuel ((k + 1) % nb) else k

/-- The outer loop of R174 for `count` codewords: where each goes, as (block, place within the segment). -/
def dealFrom (nb : Nat) (target : Nat → Nat) : (count : Nat) → (k : Nat) → (fill : List Nat) → List (Nat × Nat)
  | 0,         _, _    => []
  | count + 1, k, fill =>
    let k := skipFull nb target fill nb k
    let j := fill.getD k 0
    (k, j) :: dealFrom nb target count ((k + 1) % nb) (fill.set k (j + 1))

/-- The round-robin order of R174 over NB blocks, from block 0 with nothing filled. -/
def dealOrder (nb : Nat) (target : Nat → Nat) (count : Nat) : List (Nat × Nat) :=
  dealFrom nb target count 0 (List.replicate nb 0)

/-- Write a segment's codewords where the deal puts them, block k's from position `base k` on (R174, R175). -/
def deal (nb : Nat) (target base : Nat → Nat) (seg : List Codeword) (m : Memory) : Memory :=
  ((dealOrder nb target seg.length).zip seg).foldl
    (fun m e => writeEntry m .blk (blkIndex e.1.1 (base e.1.1 + e.1.2)) (codewordWord e.2)) m

/-- The memory after a successful DEINTERLEAVE (R170): the data segment, then the EC segment. -/
def dealSegments (g : Geometry) (d : Nat) (m : Memory) : Memory :=
  let cw := (List.range (g.dataTotal + g.ecTotal)).map (streamCodeword d m)
  deal g.blocks (fun _ => g.ec) g.dataLen (cw.drop g.dataTotal)
    (deal g.blocks g.dataLen (fun _ => 0) (cw.take g.dataTotal) m)

/-- DEINTERLEAVE (R170): E_SHORT_STREAM, then E_BAD_VALUE if any of the 8(D+E) bits read has the reserved code, then the
deal. -/
def execDeinterleave (s : State) : Result :=
  withGeometry s fun g =>
    let nbits := 8 * (g.dataTotal + g.ecTotal)
    if s.regs.bitCount.toNat < nbits then raiseError .shortStream s
    else if (List.range nbits).any fun i => bitCode s.draws s.mem i == 3 then raiseError .badValue s
    else complete (s.setMem (dealSegments g s.draws s.mem))

end Sys2Proof.Machine
end

