-- ==== Sys2Proof/Machine/Field.lean ====
section
/-! DEFINITION. The field commands (42_galois.md R213–R220). On an error GF_R is unchanged (60_exceptions.md R293). -/

namespace Sys2Proof.Machine

/-- A field command's end: GF_R ← the result and complete, or the error when the operation is undefined on its operands. -/
def fieldResult (code : ErrCode) (r : Option Elem) (s : State) : Result :=
  match r with
  | none   => raiseError code s
  | some v => complete (s.setGfR v)

/-- GF_ADD (R213). -/
def execGfAdd (s : State) : Result := complete (s.setGfR (gfAdd (elemA s) (elemB s)))

/-- GF_MUL (R214). -/
def execGfMul (s : State) : Result := complete (s.setGfR (gfMul (elemA s) (elemB s)))

/-- GF_DIV: E_DIV_ZERO for divisor 0 (R215). -/
def execGfDiv (s : State) : Result := fieldResult .divZero (gfDiv (elemA s) (elemB s)) s

/-- GF_INV: E_DIV_ZERO for operand 0 (R216). -/
def execGfInv (s : State) : Result := fieldResult .divZero (gfInv (elemA s)) s

/-- GF_POW with the signed exponent: E_LOG_ZERO for base 0 (R217). -/
def execGfPow (s : State) : Result := fieldResult .logZero (gfPow (elemA s) (exponentB s)) s

/-- GF_EXP: GF_A read as an unsigned exponent (R218). -/
def execGfExp (s : State) : Result := complete (s.setGfR (gfExp (exponentA s)))

/-- GF_LOG: E_LOG_ZERO for operand 0 (R219). -/
def execGfLog (s : State) : Result := fieldResult .logZero ((gfLog (elemA s)).map fun n => BitVec.ofNat 8 n) s

/-- POLY_EVAL k: the block's VAL fields as a polynomial, evaluated at GF_A (R220). -/
def execPolyEval (k : BitVec 8) (s : State) : Result :=
  withBlock k s fun g =>
    complete (s.setGfR (polyEval (blockMessage s.draws s.mem k.toNat (g.blockLen k.toNat)) (elemA s)))

end Sys2Proof.Machine
end

