-- ==== Sys2Proof/Machine/ReedSolomon.lean ====
section
/-! DEFINITION. Reed-Solomon syndromes and erasure correction (43_reed_solomon.md): SYNDROME (R241), CORRECT (R252) and
CORRECT_ALL (R253), with no blind error location (R257). -/

namespace Sys2Proof.Machine

/-- S_i = poly_eval(msg, α^i) for i = 0..t−1 (R242). -/
def syndromes (msg : List Elem) (t : Nat) : List Elem := (List.range t).map fun i => polyEval msg (gfExp i)

/-- snz: some syndrome is not 0 (R242). -/
def anyNonzero (synd : List Elem) : Bool := synd.any fun v => v != 0

/-- SYND[i] ← S_i for i = 0..t−1; the entries from t on are unchanged (R241, R242). -/
def storeSyndromes (m : Memory) (synd : List Elem) : Memory := writeEntries m .synd 0 (synd.map fun v => v.setWidth 32)

/-- The coefficient degree c = n − 1 − p of position p, and its locator X = α^c (R246). -/
def locatorX (n p : Nat) : Elem := gfExp ((n : Int) - 1 - p)

/-- The errata locator: the product of the factors X_m·x + 1 (R247). -/
def errataLocator (xs : List Elem) : List Elem := xs.foldl (fun loc x => polyMul loc [x, 1]) [1]

/-- The remainder `rem` of R248: the last t+1 coefficients of reverse(synd)·Λ, with synd = [0] ++ S; `ev` is its reverse. -/
def evaluatorRemainder (synd : List Elem) (loc : List Elem) : Option (List Elem) :=
  (polyDiv (polyMul (0 :: synd).reverse loc) (1 :: List.replicate (synd.length + 1) 0)).map Prod.snd

/-- The derivative-like product of R249: Π_{j ≠ m} (1 ⊕ X_m⁻¹·X_j), the locators taken in list order. -/
def forneyDenominator (xs : List Elem) (m : Nat) (xInv : Elem) : Elem :=
  xs.zipIdx.foldl (fun den e => if e.2 = m then den else gfMul den (gfAdd 1 (gfMul xInv e.1))) 1

/-- The Forney magnitude of erasure m, with `rem` = reverse(ev) (R249); none when its denominator is 0 (R250). -/
def forneyMagnitude (rem xs : List Elem) (m : Nat) : Option Elem :=
  match gfInv (xs.getD m 0) with
  | none      => none
  | some xInv => gfDiv (gfMul (xs.getD m 0) (polyEval rem xInv)) (forneyDenominator xs m xInv)

/-- The magnitudes of all erasures, or none when one of them is undefined (R249, R250). -/
def forneyMagnitudes (rem xs : List Elem) : Option (List Elem) := (List.range xs.length).mapM (forneyMagnitude rem xs)

/-- XOR each magnitude into its position of the message (R251). -/
def applyMagnitudes (msg : List Elem) (pos : List Nat) (mags : List Elem) : List Elem :=
  (pos.zip mags).foldl (fun out e => out.set e.1 (gfAdd (out.getD e.1 0) e.2)) msg

/-- The corrected message of a block with these syndromes and erasures, or none for E_UNCORRECTABLE: more than t erasures
(R245), or a zero denominator (R250). -/
def correctedMessage (msg synd : List Elem) (pos : List Nat) : Option (List Elem) :=
  if synd.length < pos.length then none
  else
    let xs := pos.map (locatorX msg.length)
    match evaluatorRemainder synd (errataLocator xs) with
    | none     => none
    | some rem => (forneyMagnitudes rem xs).map (applyMagnitudes msg pos)

/-- BLK[k][pos[m]] ← {U = 0, VAL = out[pos[m]]} for every m (R251). -/
def storeCorrected (m : Memory) (k : Nat) (pos : List Nat) (out : List Elem) : Memory :=
  pos.foldl (fun m p => writeEntry m .blk (blkIndex k p) (codewordWord { u := false, val := out.getD p 0 })) m

/-- What a correction of one block leaves: the memory, the block's snz, and whether it failed. -/
structure BlockOutcome where
  mem    : Memory
  snz    : Bool
  failed : Bool

/-- The per-block procedure that CORRECT and CORRECT_ALL share (R252, R253): syndromes into SYND, the status into BSTAT[k]
(R254), and the corrected codewords into BLK, or nothing into BLK when the block is uncorrectable. -/
def correctBlock (d : Nat) (m : Memory) (k n t : Nat) (pos : List Nat) : BlockOutcome :=
  let msg  := blockMessage d m k n
  let synd := syndromes msg t
  let snz  := anyNonzero synd
  match correctedMessage msg synd pos with
  | none     =>
    { mem := writeEntry (storeSyndromes m synd) .bstat k (bstatWord .uncorrectable snz pos.length),
      snz := snz, failed := true }
  | some out =>
    { mem := storeCorrected (writeEntry (storeSyndromes m synd) .bstat k (bstatWord .none snz pos.length)) k pos out,
      snz := snz, failed := false }

/-- SYNDROME k (R241): SYND[0..t−1] and SYND_NZ. -/
def execSyndrome (k : BitVec 8) (s : State) : Result :=
  withBlock k s fun g =>
    let synd := syndromes (blockMessage s.draws s.mem k.toNat (g.blockLen k.toNat)) g.ec
    complete ((s.setMem (storeSyndromes s.mem synd)).setSyndNz (anyNonzero synd))

/-- CORRECT k, auto (R252). -/
def execCorrect (k : BitVec 8) (auto : Bool) (s : State) : Result :=
  withBlock k s fun g =>
    match erasureList auto k.toNat (g.blockLen k.toNat) s with
    | none     => raiseError .badErasure s
    | some pos =>
      let r  := correctBlock s.draws s.mem k.toNat (g.blockLen k.toNat) g.ec pos
      let s' := (s.setMem r.mem).setSyndNz r.snz
      if r.failed then completeUncorrectable s' else complete s'

/-- What the loop of CORRECT_ALL carries from block to block (R253). -/
structure AllBlocks where
  mem   : Memory
  fails : Nat
  anyNz : Bool

/-- One round of the loop of R253: block k at its unknown-flag positions. -/
def correctNext (d : Nat) (g : Geometry) (a : AllBlocks) (k : Nat) : AllBlocks :=
  let r := correctBlock d a.mem k (g.blockLen k) g.ec (flaggedErasures d a.mem k (g.blockLen k))
  { mem := r.mem, fails := if r.failed then a.fails + 1 else a.fails, anyNz := a.anyNz || r.snz }

/-- The loop of R253 over the blocks 0..NB−1 in block order. -/
def correctBlocks (d : Nat) (g : Geometry) (m : Memory) : AllBlocks :=
  (List.range g.blocks).foldl (correctNext d g) { mem := m, fails := 0, anyNz := false }

/-- CORRECT_ALL (R253): every block, FAIL_COUNT and SYND_NZ; E_UNCORRECTABLE if any block failed. -/
def execCorrectAll (s : State) : Result :=
  withGeometry s fun g =>
    let a  := correctBlocks s.draws g s.mem
    let s' := ((s.setMem a.mem).setRegs { s.regs with failCount := BitVec.ofNat 8 a.fails }).setSyndNz a.anyNz
    if a.fails = 0 then complete s' else completeUncorrectable s'

end Sys2Proof.Machine
end

