-- ==== Sys2Proof/Machine/Traversal.lean ====
section
/-! DEFINITION. Grid traversal and unmasking (40_traversal.md): the visit order (R141, R142), what each module produces
(R143, R145), and TRAVERSE (R140, R146). -/

namespace Sys2Proof.Machine

/-- The rows of a column pair, upward or downward (R142). -/
def rowOrder (n : Nat) (upward : Bool) : List Nat := if upward then (List.range n).reverse else List.range n

/-- One column pair: in each row the right column, then the left (R142). -/
def walkPair (n : Nat) (upward : Bool) (xr : Nat) : List (Nat × Nat) :=
  (rowOrder n upward).flatMap fun y => [(xr, y), (xr - 1, y)]

/-- The loop of R142 from right column `xr` on: it ends when the column index goes negative, a right column 6 becomes 5, and
after each pair the direction reverses and the column steps two left. `fuel` bounds the rounds. -/
def visitFrom (n : Nat) : (fuel : Nat) → (xr : Int) → (upward : Bool) → List (Nat × Nat)
  | 0,        _,  _      => []
  | fuel + 1, xr, upward =>
    if xr < 0 then []
    else
      let x : Int := if xr = 6 then 5 else xr
      walkPair n upward x.toNat ++ visitFrom n fuel (x - 2) (!upward)

/-- `visit_order(N)` (R142). -/
def visitOrder (n : Nat) : List (Nat × Nat) := visitFrom n n (n - 1) true

/-- The check pass's question about a cell: not skipped, and holding the reserved code (R140, R147 (a)). -/
def consumesReserved (c : ModCell) : Bool := !c.skip && c.val == 3

/-- The bit a module that is not skipped produces: U passes through, a known bit is XORed with the mask (R143). -/
def unmask (inverted : Bool) (val : TriCode) : TriCode :=
  if val = 2 then 2 else val ^^^ (BitVec.ofBool inverted).setWidth 2

/-- The trace entry of a visited coordinate: X[7:0], Y[15:8], S[16] (R145). -/
def traceWord (x y : Nat) (skipped : Bool) : Word := fieldAt 8 0 x ||| fieldAt 8 8 y ||| bitAt skipped 16

/-- The trace of a walk (R143): one entry for every visited coordinate. -/
def traceOf (cell : Nat → Nat → ModCell) (seq : List (Nat × Nat)) : List Word :=
  seq.map fun p => traceWord p.1 p.2 (cell p.1 p.2).skip

/-- The bitstream of a walk (R143): one bit for every visited module that is not skipped. -/
def bitsOf (inverted : Nat → Nat → Bool) (cell : Nat → Nat → ModCell) (seq : List (Nat × Nat)) : List Word :=
  (seq.filter fun p => !(cell p.1 p.2).skip).map fun p => (unmask (inverted p.1 p.2) (cell p.1 p.2).val).setWidth 32

/-- What a TRAVERSE that passed its check writes (R146): BITS, TRACE, BIT_COUNT and TRACE_COUNT. -/
def storeWalk (bits trace : List Word) (s : State) : State :=
  (s.setMem (writeEntries (writeEntries s.mem .trace 0 trace) .bits 0 bits)).setRegs
    { s.regs with bitCount := BitVec.ofNat 16 bits.length, traceCount := BitVec.ofNat 16 trace.length }

/-- TRAVERSE (R140). The check pass and the emitting pass each read every cell, so each has a draw of its own (93 U1, log 2). -/
def execTraverse (s : State) : Result :=
  withGeometry s fun g =>
    let seq := visitOrder g.size
    if seq.any fun p => consumesReserved (modCell s.draws s.mem p.1 p.2) then raiseError .badValue s
    else
      let cell := modCell (s.draws + 1) s.mem
      complete (storeWalk (bitsOf (maskBit s.rom.maskFn s.regs.maskId) cell seq) (traceOf cell seq) s)

end Sys2Proof.Machine
end

