-- ==== Sys2Proof/Machine/Dispatch.lean ====
section
/-! DEFINITION. The meaning of every command (30_encoding.md R112), one arm for each. -/

namespace Sys2Proof.Machine

def exec (i : Instr) (s : State) : Host.Outcome State Fault Refusal :=
  match i with
  | .nop => Sys2Proof.Machine.execNop s
  | .traverse => Sys2Proof.Machine.execTraverse s
  | .deinterleave => Sys2Proof.Machine.execDeinterleave s
  | .syndrome k => Sys2Proof.Machine.execSyndrome k s
  | .correct k auto => Sys2Proof.Machine.execCorrect k auto s
  | .correctAll => Sys2Proof.Machine.execCorrectAll s
  | .polyEval k => Sys2Proof.Machine.execPolyEval k s
  | .gfAdd => Sys2Proof.Machine.execGfAdd s
  | .gfMul => Sys2Proof.Machine.execGfMul s
  | .gfDiv => Sys2Proof.Machine.execGfDiv s
  | .gfInv => Sys2Proof.Machine.execGfInv s
  | .gfPow => Sys2Proof.Machine.execGfPow s
  | .gfExp => Sys2Proof.Machine.execGfExp s
  | .gfLog => Sys2Proof.Machine.execGfLog s
  | .reset => Sys2Proof.Machine.execReset s

end Sys2Proof.Machine
end

