-- ==== Sys2Proof/Decode.lean ====
section
/-! DEFINITION. The command encoding (30_encoding.md): the field layout R110, the opcode map R112, decoding R115 with the
illegal words R113 rejected by name, and the encoder. -/

namespace Sys2Proof

/-- OP, bits [7:0] of a command word (R110). -/
def opField (w : Word) : BitVec 8 := w.extractLsb' 0 8

/-- ARG, bits [15:8] of a command word (R110). -/
def argField (w : Word) : BitVec 8 := w.extractLsb' 8 8

/-- AUTO, bit [16] of a command word (R110). -/
def autoField (w : Word) : Bool := w.getLsbD 16

/-- A row of the opcode map (R112): the word matches when its bits under `mask` are those of `pattern`; it then stands for
`command` of its ARG and AUTO (R111). -/
structure OpRow where
  mnemonic : String
  pattern  : Word
  mask     : Word
  command  : BitVec 8 → Bool → Instr

/-- The opcode map, row by row as R112 has it. -/
def opcodeMap : List OpRow :=
  [⟨"NOP", 0x00000000, 0xFFFFFFFF, fun _ _ => .nop⟩,
   ⟨"TRAVERSE", 0x00000001, 0xFFFFFFFF, fun _ _ => .traverse⟩,
   ⟨"DEINTERLEAVE", 0x00000002, 0xFFFFFFFF, fun _ _ => .deinterleave⟩,
   ⟨"SYNDROME", 0x00000003, 0xFFFF00FF, fun k _ => .syndrome k⟩,
   ⟨"CORRECT", 0x00000004, 0xFFFE00FF, fun k u => .correct k u⟩,
   ⟨"CORRECT_ALL", 0x00000005, 0xFFFFFFFF, fun _ _ => .correctAll⟩,
   ⟨"POLY_EVAL", 0x00000006, 0xFFFF00FF, fun k _ => .polyEval k⟩] ++
  [⟨"GF_ADD", 0x00000010, 0xFFFFFFFF, fun _ _ => .gfAdd⟩,
   ⟨"GF_MUL", 0x00000011, 0xFFFFFFFF, fun _ _ => .gfMul⟩,
   ⟨"GF_DIV", 0x00000012, 0xFFFFFFFF, fun _ _ => .gfDiv⟩,
   ⟨"GF_INV", 0x00000013, 0xFFFFFFFF, fun _ _ => .gfInv⟩,
   ⟨"GF_POW", 0x00000014, 0xFFFFFFFF, fun _ _ => .gfPow⟩,
   ⟨"GF_EXP", 0x00000015, 0xFFFFFFFF, fun _ _ => .gfExp⟩,
   ⟨"GF_LOG", 0x00000016, 0xFFFFFFFF, fun _ _ => .gfLog⟩,
   ⟨"RESET", 0x000000FF, 0xFFFFFFFF, fun _ _ => .reset⟩]

/-- The test of R115: `(w AND mask) = match`. -/
def OpRow.hits (r : OpRow) (w : Word) : Bool := w &&& r.mask == r.pattern

/-- Why a word is no command (R113). Both reasons complete with the one code E_BAD_CMD. -/
inductive DecodeError where
  /-- OP is in no row of R112: 0x07–0x0F, 0x17–0xFE. -/
  | reservedOpcode (op : BitVec 8)
  /-- OP is in R112 and a bit outside the row's free fields differs from its pattern. -/
  | fixedBitsDiffer (op : BitVec 8)
  deriving DecidableEq, Repr

/-- The command of the row that `w` matches, with the operands of R111; none when no row matches. -/
def commandOf (w : Word) : Option Instr :=
  (opcodeMap.find? fun r => r.hits w).map fun r => r.command (argField w) (autoField w)

/-- Decoding, total on every 32-bit word (R115); the error names which clause of R113 the word breaks. -/
def decode (w : Word) : Except DecodeError Instr :=
  match commandOf w with
  | some i => .ok i
  | none   =>
    if opcodeMap.any (fun r => opField r.pattern == opField w) then .error (.fixedBitsDiffer (opField w))
    else .error (.reservedOpcode (opField w))

/-- A command word from its fields, RSV = 0 (R110). -/
def commandWord (op : BitVec 8) (arg : BitVec 8) (auto : Bool) : Word :=
  op.setWidth 32 ||| (arg.setWidth 32 <<< 8) ||| ((BitVec.ofBool auto).setWidth 32 <<< 16)

/-- The word of a command (R112, R117). -/
def encode : Instr → Word
  | .nop            => commandWord 0x00 0 false
  | .traverse       => commandWord 0x01 0 false
  | .deinterleave   => commandWord 0x02 0 false
  | .syndrome k     => commandWord 0x03 k false
  | .correct k auto => commandWord 0x04 k auto
  | .correctAll     => commandWord 0x05 0 false
  | .polyEval k     => commandWord 0x06 k false
  | .gfAdd          => commandWord 0x10 0 false
  | .gfMul          => commandWord 0x11 0 false
  | .gfDiv          => commandWord 0x12 0 false
  | .gfInv          => commandWord 0x13 0 false
  | .gfPow          => commandWord 0x14 0 false
  | .gfExp          => commandWord 0x15 0 false
  | .gfLog          => commandWord 0x16 0 false
  | .reset          => commandWord 0xFF 0 false

/-- The command word whose low `nbits` bits are those of `w` and whose other bits are 0 (R114: every command is one
32-bit word; opcode_table.json numbers its bits from the least significant). -/
def tableWord (nbits w : Nat) : Word := BitVec.ofNat 32 (w % 2 ^ nbits)

/-- The command the decoder reads from a row of opcode_table.json. -/
def decodeTableWord (nbits w : Nat) : Option Instr :=
  match decode (tableWord nbits w) with
  | .ok i    => some i
  | .error _ => none

end Sys2Proof
end

