-- ==== Sys2Proof/Machine/Port.lean ====
section
/-! DEFINITION. The host port (20_memory.md): the address map R83, access checks R81 and R85, register and window accesses
(10_state.md R31–R46, R51; R84, R86), and what changes while a command runs (R87). -/

namespace Sys2Proof.Machine

/-- The eighteen registers, in the order of their offsets (10_state.md §2). -/
inductive Reg where
  | id | ctrl | status | cmd | version | ecLevel | maskId | bitCount | traceCount
  | eraseCount | gfA | gfB | gfR | failCount | geom | group0 | group1 | totals
  deriving DecidableEq, Repr

/-- The register map: register number offset/4 (10_state.md §2, R83). -/
def regMap : List Reg :=
  [.id, .ctrl, .status, .cmd, .version, .ecLevel, .maskId, .bitCount, .traceCount] ++
  [.eraseCount, .gfA, .gfB, .gfR, .failCount, .geom, .group0, .group1, .totals]

/-- What an address names (R83). -/
inductive Target where
  | reg (r : Reg)
  | entry (w : Window) (i : Nat)
  | reserved
  deriving DecidableEq, Repr

/-- The window that a byte address lies in (R83). -/
def windowAt (a : Nat) : Option Window := windows.find? fun w => windowBase w ≤ a && a < windowBase w + 4 * windowSize w

/-- The address map (R83, R84): a register at offset/4, or an entry at (addr − base)/4, or nothing. -/
def target (addr : Addr) : Target :=
  let a := addr.toNat
  match regMap[a / 4]? with
  | some r => .reg r
  | none   =>
    match windowAt a with
    | some w => .entry w ((a - windowBase w) / 4)
    | none   => .reserved

/-- What a read of a register returns, with every bit the register does not define 0 (10_state.md R31–R46, R51). -/
def readReg (s : State) : Reg → Word
  | .id         => 0x51520001
  | .ctrl       => bitAt s.regs.ie 0
  | .status     => statusWord s.status
  | .cmd        => s.regs.cmdLast
  | .version    => s.regs.version.setWidth 32
  | .ecLevel    => s.regs.ecLevel.setWidth 32
  | .maskId     => s.regs.maskId.setWidth 32
  | .bitCount   => s.regs.bitCount.setWidth 32
  | .traceCount => s.regs.traceCount.setWidth 32
  | .eraseCount => s.regs.eraseCount.setWidth 32
  | .gfA        => s.regs.gfA.setWidth 32
  | .gfB        => s.regs.gfB.setWidth 32
  | .gfR        => s.regs.gfR.setWidth 32
  | .failCount  => s.regs.failCount.setWidth 32
  | .geom       => geomWord s
  | .group0     => group0Word s
  | .group1     => group1Word s
  | .totals     => totalsWord s

/-- A write of a register that the port does not refuse: only the defined bits are stored, a write to a read-only register
changes nothing (R51, R86), a write to STATUS clears W1C bits (R33), a write to CMD issues a command (R34). -/
def writeReg (s : State) (v : Word) : Reg → State
  | .id         => s
  | .ctrl       => s.setRegs { s.regs with ie := v.getLsbD 0 }
  | .status     => s.setStatus (statusAcknowledge v s.status)
  | .cmd        => acceptCommand v s
  | .version    => s.setRegs { s.regs with version := v.setWidth 6 }
  | .ecLevel    => s.setRegs { s.regs with ecLevel := v.setWidth 2 }
  | .maskId     => s.setRegs { s.regs with maskId := v.setWidth 3 }
  | .bitCount   => s.setRegs { s.regs with bitCount := v.setWidth 16 }
  | .traceCount => s
  | .eraseCount => s.setRegs { s.regs with eraseCount := v.setWidth 9 }
  | .gfA        => s.setRegs { s.regs with gfA := v.setWidth 8 }
  | .gfB        => s.setRegs { s.regs with gfB := v.setWidth 16 }
  | .gfR        => s
  | .failCount  => s
  | .geom       => s
  | .group0     => s
  | .group1     => s
  | .totals     => s

/-- A whole aligned word: all four byte enables and addr[1:0] = 0 (R81). -/
def wholeWord (addr : Addr) (be : BitVec 4) : Bool := be == 0xF && addr.extractLsb' 0 2 == 0

/-- The registers whose reads return their current values while a command runs (R87). -/
def readableBusy : Reg → Bool
  | .id | .ctrl | .status | .cmd => true
  | _ => false

/-- The registers whose writes take effect while a command runs (R87). -/
def writableBusy : Reg → Bool
  | .ctrl | .status => true
  | _ => false

/-- The port refuses a read that is no whole aligned word or names a reserved address (R81, R85). -/
def readRefused (addr : Addr) (be : BitVec 4) : Bool := !wholeWord addr be || target addr == .reserved

/-- The port refuses a write for the same reasons, and while BUSY = 1 every write but to CTRL and STATUS, a write to a
read-only register or window included (R81, R85, R87, 60_exceptions.md R295). Log 12. -/
def writeRefused (s : State) (addr : Addr) (be : BitVec 4) : Bool :=
  !wholeWord addr be ||
  match target addr with
  | .reserved  => true
  | .reg r     => s.status.busy && !writableBusy r
  | .entry _ _ => s.status.busy

/-- The value a read returns (R81, R84, R85, R87): 0 when refused, a free value for what is hidden while a command runs. -/
def readValue (s : State) (addr : Addr) (be : BitVec 4) : Word :=
  if readRefused addr be then 0
  else
    match target addr with
    | .reg r     => if s.status.busy && !readableBusy r then Config.freeWord s.draws else readReg s r
    | .entry w i => if s.status.busy then Config.freeWord s.draws else readEntry s.draws s.mem w i
    | .reserved  => 0

/-- `MemRead(addr, 4)` (R80): its value goes to the host, a refusal sets BUSERR, and nothing else happens (R88). -/
def portRead (s : State) (addr : Addr) (be : BitVec 4) : State :=
  let s' := (s.pushRead (readValue s addr be)).setDraws (s.draws + 1)
  if readRefused addr be then s'.setBusErr else s'

/-- `MemWrite(addr, 4, v)` (R80): a refused write changes nothing but BUSERR; a write to a read-only window changes nothing
(R84). -/
def portWrite (s : State) (addr : Addr) (be : BitVec 4) (v : Word) : State :=
  if writeRefused s addr be then s.setBusErr
  else
    match target addr with
    | .reg r     => writeReg s v r
    | .entry w i => if windowWritable w then s.setMem (writeEntry s.mem w i v) else s
    | .reserved  => s

/-- One host transaction, atomic (R89). -/
def portStep (t : Transaction) (s : State) : State :=
  match t with
  | .read addr be    => portRead s addr be
  | .write addr be v => portWrite s addr be v

end Sys2Proof.Machine
end

