-- ==== Sys2Proof/Machine/Schedule.lean ====
section
/-! DEFINITION. Who moves next (00_scope.md R10, 20_memory.md R91, 70_reset_and_hazards.md R341), what the engine then
finds in PENDING (30_encoding.md R115), and the host's program notation as lists of moves (R116, R117). -/

namespace Sys2Proof.Machine

/-- The next move of the machine. -/
inductive Turn where
  /-- The host makes a transaction. -/
  | host (t : Transaction)
  /-- The command engine carries out the command in PENDING. -/
  | command
  /-- The engine has its turn with BUSY = 0, or nothing is waiting: "the engine is idle" (60_exceptions.md R305). -/
  | idle
  deriving DecidableEq, Repr

/-- Who moves next, and the state with that move taken from the list. The list is the order that R91 speaks of; when it is
empty a busy engine moves, since "an accepted command eventually completes" (R341). Log 1. -/
def nextTurn (s : State) : Turn × State :=
  match s.inputs with
  | []               => (if s.status.busy then .command else .idle, s)
  | .engine :: rest  => (if s.status.busy then .command else .idle, s.setInputs rest)
  | .port t :: rest  => (.host t, s.setInputs rest)

/-- The command the engine decodes from PENDING as the first action of its step, if the word is one (R115). -/
def fetchCommand (s : State) : Except DecodeError Instr := decode s.pending

/-- `s` with the command word `w` accepted as by a CMD write (10_state.md R34) and the engine's turn next. -/
def placeCommand (w : Word) (s : State) : State :=
  (acceptCommand w s).setInputs
    (match s.inputs with
     | []        => []
     | m :: rest => .engine :: m :: rest)

/-! ### Host notation (R116, R117) -/

/-- The byte offset of a register (10_state.md §2). -/
def regOffset (r : Reg) : Addr := BitVec.ofNat 20 (4 * regMap.idxOf r)

/-- `wr R, v`. -/
def wr (r : Reg) (v : Word) : Move := .port (.write (regOffset r) 0xF v)

/-- `wr` to entry i of a memory, at the address R83 gives. -/
def wrEntry (w : Window) (i : Nat) (v : Word) : Move := .port (.write (BitVec.ofNat 20 (entryAddr w i)) 0xF v)

/-- `rd R`. -/
def rd (r : Reg) : Move := .port (.read (regOffset r) 0xF)

/-- `rd` of entry i of a memory. -/
def rdEntry (w : Window) (i : Nat) : Move := .port (.read (BitVec.ofNat 20 (entryAddr w i)) 0xF)

/-- `cmd MNEMONIC`: write the encoded word to CMD. -/
def cmd (i : Instr) : Move := wr .cmd (encode i)

/-- `wait` in a run where the engine's step comes after `polls` reads of STATUS: those reads find BUSY = 1, the engine
moves, and one more read finds BUSY = 0 and ends the loop. -/
def waitPolls (polls : Nat) : List Move := List.replicate polls (rd .status) ++ [.engine, rd .status]

/-- `run X …`: `cmd X … ; wait`. -/
def run (i : Instr) (polls : Nat) : List Move := cmd i :: waitPolls polls

/-- `clr`: `wr STATUS, 0x0000_0016`. -/
def clr : Move := wr .status 0x16

end Sys2Proof.Machine
end

