-- ==== Sys2Proof/Machine/Step.lean ====
section
/-! DEFINITION. One step of the machine: one move of one agent (00_scope.md R10). -/

namespace Sys2Proof.Machine

/-- The engine's step: decode PENDING and carry out the command, or complete an illegal word with E_BAD_CMD (30_encoding.md
R113, R115). -/
def engineStep (s : State) : Result :=
  match fetchCommand s with
  | .ok i    => exec i s
  | .error _ => raiseError .badCmd s

/-- One move. A VEC_TABLE that breaks 00_scope.md R9 or 41_deinterleave.md R181 is refused; nothing else stops the machine. -/
def step (s : State) : Host.Outcome State Fault Refusal :=
  if vecTableOk s.rom.vecTable then
    match nextTurn s with
    | (.host t, s')  => .next (portStep t s')
    | (.command, s') => engineStep s'
    | (.idle, s')    => .next s'
  else .refused .badVecTable

/-- `s` with the command word `w` accepted and the engine's turn next, so that the next step runs it. Log 11. -/
def State.withFetchWord (s : State) (nbits w : Nat) : State := placeCommand (tableWord nbits w) s

end Sys2Proof.Machine
end

