-- ==== Sys2Proof/Safety.lean ====
section
/-! DEFINITION. The terms claims use: the invariant of every step, the end of a run, how a command completes, and which bytes
an instruction may change. -/

namespace Sys2Proof.Machine

/-! ### The invariant -/

/-- A listed byte lies in a memory of the address map (20_memory.md R83) and holds no bit that its entry does not define
(R84: unused bits of an entry read 0). -/
def cellLegal (c : Host.Cell) : Prop :=
  ∃ w, windowAt c.1 = some w ∧ c.2 &&& ~~~(byteOf (windowMask w) (c.1 % 4)) = 0

/-- An entry is written whole: when one of its four bytes has been written, all have (20_memory.md R81, R90). -/
def writtenWhole (m : Memory) : Prop :=
  ∀ a, (getByte m a).isSome → ∀ b, b / 4 = a / 4 → (getByte m b).isSome

/-- What every step keeps. -/
structure Inv (s : State) : Prop where
  /-- VEC_TABLE meets 00_scope.md R9 and 41_deinterleave.md R181. -/
  tableLegal  : VecTableLegal s.rom.vecTable
  /-- The memory is in its canonical form. -/
  memSorted   : s.mem.wf
  /-- No write has left the windows of the map or set an undefined bit (20_memory.md R83, R84). -/
  memLegal    : ∀ c ∈ s.mem, cellLegal c
  /-- Entries are written whole (20_memory.md R90). -/
  memWhole    : writtenWhole s.mem
  /-- BUSY and DONE are never 1 together: acceptance clears DONE and completion clears BUSY (10_state.md R34, R62). -/
  busyOrDone  : ¬ (s.status.busy = true ∧ s.status.done = true)
  /-- TRACE_COUNT is 0 or N·(N−1) for a symbol size N (10_state.md R39, 40_traversal.md R146). -/
  traceLegal  : s.regs.traceCount = 0 ∨
    ∃ v, 1 ≤ v ∧ v ≤ 40 ∧ s.regs.traceCount.toNat = (4 * v + 17) * (4 * v + 16)
  /-- FAIL_COUNT counts blocks, of which there are at most 128 (10_state.md R44, 00_scope.md R9). -/
  failsLegal  : s.regs.failCount.toNat ≤ 128

/-- The end of a run: the host has no move left and BUSY = 0 (70_reset_and_hazards.md R342). -/
def RunEnded (s : State) : Prop := s.inputs = [] ∧ s.status.busy = false

/-! ### Completions -/

/-- From `s` a command ended in a completion with `code`, leaving `t` (60_exceptions.md R292): BUSY, DONE, ERRCODE and the
sticky ERR are as R292 says, BUSERR is kept (R295), and the tables, the waiting moves and the values already read are
untouched. PENDING is unspecified afterwards (93 U6), so nothing is said of it. -/
structure Completed (code : ErrCode) (s t : State) : Prop where
  busy    : t.status.busy = false
  done    : t.status.done = true
  errCode : t.status.errCode = code
  err     : t.status.err = (s.status.err || code != .none)
  busErr  : t.status.busErr = s.status.busErr
  rom     : t.rom = s.rom
  inputs  : t.inputs = s.inputs
  reads   : t.reads = s.reads

/-- `raise Error(code)`: nothing but STATUS changes (60_exceptions.md R293, R299). -/
structure RaisedError (code : ErrCode) (s t : State) : Prop where
  completed : Completed code s t
  syndNz    : t.status.syndNz = s.status.syndNz
  regs      : t.regs = s.regs
  mem       : t.mem = s.mem

/-- A field command or POLY_EVAL succeeded with result `v`: GF_R holds it, and no other register and no byte of memory
changed (42_galois.md §3). -/
structure WroteGfR (v : Elem) (s t : State) : Prop where
  completed : Completed .none s t
  syndNz    : t.status.syndNz = s.status.syndNz
  regs      : t.regs = { s.regs with gfR := v }
  mem       : t.mem = s.mem

/-- VERSION is in 1..40 (10_state.md R35). -/
abbrev VersionValid (s : State) : Prop := 1 ≤ s.regs.version.toNat ∧ s.regs.version.toNat ≤ 40

/-! ### Frames -/

/-- Byte address `a` lies in entries lo .. lo+n−1 of a window. -/
def inEntries (w : Window) (lo n a : Nat) : Prop := entryAddr w lo ≤ a ∧ a < entryAddr w (lo + n)

/-- Every byte outside `touched` is as it was: the same value if it was written, and still unwritten if it was not. -/
def SameOutside (touched : Nat → Prop) (m m' : Memory) : Prop := ∀ a, ¬ touched a → getByte m' a = getByte m a

/-- The syndromes of block `k` that a command starting in `s` computes (43_reed_solomon.md R242). -/
def blockSyndromes (s : State) (g : Geometry) (k : Nat) : List Elem :=
  syndromes (blockMessage s.draws s.mem k (g.blockLen k)) g.ec

/-- The positions of block `k` flagged unknown in `s` (43_reed_solomon.md R243). -/
def blockFlagged (s : State) (g : Geometry) (k : Nat) : List Nat := flaggedErasures s.draws s.mem k (g.blockLen k)

/-- The corrected message of block `k` of `s` with erasures `pos`, none if it is uncorrectable (43_reed_solomon.md R245–R251). -/
def blockCorrected (s : State) (g : Geometry) (k : Nat) (pos : List Nat) : Option (List Elem) :=
  correctedMessage (blockMessage s.draws s.mem k (g.blockLen k)) (blockSyndromes s g k) pos

end Sys2Proof.Machine
end

