-- ==== Sys2Proof/Certificates/Slice0/Obligations.lean ====
section
/-! DEFINITION. The statements about this machine, for the provers. Each docstring names the rule of spec/ it comes from. A
completion leaves PENDING unspecified (93 U6) and uses up draws, so no statement speaks of `pending` or `draws` after one;
everything else a command leaves unchanged is said to be unchanged. Memory is read through `getByte`, which also says
whether a byte has been written: equal `getByte` means equal reads under every draw. -/

open Sys2Proof Sys2Proof.Machine

/-! ### Encoding (30_encoding.md) -/

/-- Decoding is the inverse of encoding, on every 32-bit word and every command (R112, R115). -/
def Obligations.DecodeInvertsEncode : Prop := ∀ (w : Word) (i : Instr), decode w = .ok i ↔ w = encode i

/-- R113: the illegal words, field by field; such a word is accepted like any other and then completes with E_BAD_CMD and no
other change. Also R115: no word matches two rows of the opcode map. -/
def Obligations.IllegalWordsCompleteWithBadCmd : Prop :=
  (∀ w : Word, (∃ e, decode w = .error e) ↔
    ((0x07 ≤ (opField w).toNat ∧ (opField w).toNat ≤ 0x0F) ∨ (0x17 ≤ (opField w).toNat ∧ (opField w).toNat ≤ 0xFE)) ∨
    w.extractLsb' 17 15 ≠ 0 ∨
    (argField w ≠ 0 ∧ opField w ∉ [(0x03 : BitVec 8), 0x04, 0x06]) ∨
    (autoField w = true ∧ opField w ≠ 0x04)) ∧
  (∀ (w : Word) (r r' : OpRow), r ∈ opcodeMap → r' ∈ opcodeMap → r.hits w = true → r'.hits w = true →
    r.mnemonic = r'.mnemonic) ∧
  (∀ (s : State) (w : Word), s.status.busy = false →
    (portWrite s 0x0000C 0xF w).pending = w ∧ (portWrite s 0x0000C 0xF w).status.busy = true) ∧
  (∀ (s : State) (e : DecodeError), decode s.pending = .error e → ∃ t, engineStep s = .next t ∧ RaisedError .badCmd s t)

/-- Words written out from R110, R112 and R118 decode to the commands they stand for. -/
def Obligations.SampleWordsDecode : Prop :=
  decode 0x00000000 = .ok .nop ∧ decode 0x00000001 = .ok .traverse ∧ decode 0x00000002 = .ok .deinterleave ∧
  decode 0x00005003 = .ok (.syndrome 0x50) ∧ decode 0x00010304 = .ok (.correct 3 true) ∧
  decode 0x00000304 = .ok (.correct 3 false) ∧ decode 0x00000005 = .ok .correctAll ∧
  decode 0x0000FF06 = .ok (.polyEval 0xFF) ∧ decode 0x00000014 = .ok .gfPow ∧ decode 0x000000FF = .ok .reset ∧
  decode 0x00020304 = .error (.fixedBitsDiffer 0x04) ∧ decode 0x00000007 = .error (.reservedOpcode 0x07)

/-! ### The step (00_scope.md R10, 30_encoding.md R115) -/

/-- A step runs the decoded command: when the engine's turn has come and PENDING decodes to i, the step is exec of i at the
state with that turn taken from the list of moves. -/
def Obligations.EngineRunsDecodedCommand : Prop :=
  ∀ (s : State) (i : Instr), VecTableLegal s.rom.vecTable → s.status.busy = true → decode s.pending = .ok i →
    (s.inputs = [] → step s = exec i s) ∧
    (∀ rest, s.inputs = .engine :: rest → step s = exec i (s.setInputs rest))

/-- A command word placed as the next command is what the next step runs, in the state that accepted it (10_state.md R34). -/
def Obligations.PlacedCommandRunsNext : Prop :=
  ∀ (s : State) (nbits w : Nat) (i : Instr), VecTableLegal s.rom.vecTable → decodeTableWord nbits w = some i →
    step (s.withFetchWord nbits w) = exec i (acceptCommand (tableWord nbits w) s)

/-- A host move is one whole transaction (20_memory.md R89), and an idle engine keeps all state (60_exceptions.md R305). -/
def Obligations.HostMovesAndIdleTurns : Prop :=
  ∀ s : State, VecTableLegal s.rom.vecTable →
    (∀ t rest, s.inputs = .port t :: rest → step s = .next (portStep t (s.setInputs rest))) ∧
    (s.status.busy = false → s.inputs = [] → step s = .next s) ∧
    (∀ rest, s.status.busy = false → s.inputs = .engine :: rest → step s = .next (s.setInputs rest))

/-- Nothing stops the machine but a VEC_TABLE that breaks R9 or R181: every transaction completes (20_memory.md R80), every command
ends in a completion (60_exceptions.md R292), and "a model refuses a table that breaks any of" R9's conditions, or whose D is not
the known total of data codewords in some entry (41_deinterleave.md R181). -/
def Obligations.StepAnswersNextUnlessTableBroken : Prop :=
  ∀ s : State, (VecTableLegal s.rom.vecTable → ∃ t, step s = .next t) ∧
    (¬ VecTableLegal s.rom.vecTable → step s = .refused .badVecTable) ∧
    (VecTableLegal s.rom.vecTable ↔ VecTableWf (vecEntries s.rom.vecTable) ∧
      ∀ i : Nat, ((vecEntries s.rom.vecTable)[i]?).map VecEntry.dataTotal = (vecKnownTotals s.rom.vecTable)[i]?)

/-! ### Completion and errors (60_exceptions.md) -/

/-- R292: every command ends in exactly one completion, which clears BUSY, sets DONE, writes ERRCODE, and sets ERR on an
error and otherwise keeps it; only RESET, which clears STATUS first (44_control.md R281), does not keep ERR and BUSERR. -/
def Obligations.EveryCommandCompletes : Prop :=
  ∀ (i : Instr) (s : State), ∃ t, exec i s = .next t ∧ t.status.busy = false ∧ t.status.done = true ∧
    t.rom = s.rom ∧ t.inputs = s.inputs ∧ t.reads = s.reads ∧
    (i ≠ .reset → Completed t.status.errCode s t) ∧
    (i = .reset → t.status.err = false ∧ t.status.busErr = false)

/-- R293 first bullet, R299: an error other than E_UNCORRECTABLE leaves the state at acceptance except STATUS. -/
def Obligations.ErrorsLeaveOnlyStatus : Prop :=
  ∀ (i : Instr) (s t : State), exec i s = .next t → t.status.errCode ≠ .none → t.status.errCode ≠ .uncorrectable →
    RaisedError t.status.errCode s t

/-- R290: the value of each code, and which commands can raise it. -/
def Obligations.CommandsRaiseOnlyTheirCodes : Prop :=
  ([ErrCode.none, .badCmd, .badVersion, .badValue, .shortStream, .badBlock, .badErasure, .uncorrectable, .divZero, .logZero].map
    errByte = [0x00, 0x01, 0x02, 0x03, 0x04, 0x05, 0x06, 0x07, 0x08, 0x09]) ∧
  ∀ (i : Instr) (s t : State), exec i s = .next t → t.status.errCode = .none ∨
    t.status.errCode ∈ ((match i with
      | .nop | .reset | .gfAdd | .gfMul | .gfExp => []
      | .traverse => [.badVersion, .badValue]
      | .deinterleave => [.badVersion, .shortStream, .badValue]
      | .syndrome _ | .polyEval _ => [.badVersion, .badBlock]
      | .correct _ _ => [.badVersion, .badBlock, .badErasure, .uncorrectable]
      | .correctAll => [.badVersion, .uncorrectable]
      | .gfDiv | .gfInv => [.divZero]
      | .gfPow | .gfLog => [.logZero]) : List ErrCode)

/-- R294: a command that meets several error conditions reports the first in the order version, then block or stream length,
then values or erasures; each error leaves only STATUS changed. -/
def Obligations.ErrorsAreReportedInOrder : Prop :=
  ∀ s : State,
    (¬ VersionValid s → ∀ i ∈ [Instr.traverse, .deinterleave, .correctAll], ∃ t, exec i s = .next t ∧ RaisedError .badVersion s t) ∧
    (¬ VersionValid s → ∀ k auto, ∀ i ∈ [Instr.syndrome k, .polyEval k, .correct k auto],
      ∃ t, exec i s = .next t ∧ RaisedError .badVersion s t) ∧
    (∀ g, geometry s = some g → ∀ k : BitVec 8, g.blocks ≤ k.toNat → ∀ auto, ∀ i ∈ [Instr.syndrome k, .polyEval k, .correct k auto],
      ∃ t, exec i s = .next t ∧ RaisedError .badBlock s t) ∧
    (∀ g, geometry s = some g → (∃ p ∈ visitOrder g.size, (modCell s.draws s.mem p.1 p.2).skip = false ∧
      (modCell s.draws s.mem p.1 p.2).val = 3) → ∃ t, exec .traverse s = .next t ∧ RaisedError .badValue s t) ∧
    (∀ g, geometry s = some g → s.regs.bitCount.toNat < 8 * (g.dataTotal + g.ecTotal) →
      ∃ t, exec .deinterleave s = .next t ∧ RaisedError .shortStream s t) ∧
    (∀ g, geometry s = some g → 8 * (g.dataTotal + g.ecTotal) ≤ s.regs.bitCount.toNat →
      (∃ i, i < 8 * (g.dataTotal + g.ecTotal) ∧ bitCode s.draws s.mem i = 3) →
      ∃ t, exec .deinterleave s = .next t ∧ RaisedError .badValue s t) ∧
    (∀ g, geometry s = some g → ∀ (k : BitVec 8) (auto : Bool), k.toNat < g.blocks →
      erasureList auto k.toNat (g.blockLen k.toNat) s = none →
      ∃ t, exec (.correct k auto) s = .next t ∧ RaisedError .badErasure s t)

/-! ### Control commands (44_control.md) -/

/-- NOP (R280): BUSY 0, DONE 1, ERRCODE 0, ERR, SYND_NZ and BUSERR kept, nothing else changed; with IE = 1 it raises the
interrupt line; from reset STATUS becomes 0x0000_0002. A word with OP = 0 and any other bit set is not NOP. -/
def Obligations.NopOnlyCompletes : Prop :=
  encode .nop = 0x00000000 ∧
  (∀ w : Word, opField w = 0x00 → w ≠ 0x00000000 → ∃ e, decode w = .error e) ∧
  (∀ s : State, ∃ t, exec .nop s = .next t ∧ Completed .none s t ∧ t.status.err = s.status.err ∧
    t.status.syndNz = s.status.syndNz ∧ t.regs = s.regs ∧ t.mem = s.mem ∧ irq t = s.regs.ie) ∧
  (∃ t, step (State.reset.withFetchWord 32 0) = .next t ∧ statusWord t.status = 0x00000002)

/-- RESET (R281): every register at its reset value, STATUS = 0x0000_0002, the interrupt line low, every memory as it was. A
word with OP = 0xFF and any other bit set is illegal. -/
def Obligations.ResetCommandRestoresRegisters : Prop :=
  encode .reset = 0x000000FF ∧
  (∀ w : Word, opField w = 0xFF → w ≠ 0x000000FF → ∃ e, decode w = .error e) ∧
  (∀ s : State, ∃ t, exec .reset s = .next t ∧ statusWord t.status = 0x00000002 ∧
    t.regs = { ie := false, cmdLast := 0, version := 0, ecLevel := 0, maskId := 0, bitCount := 0, traceCount := 0,
               eraseCount := 0, gfA := 0, gfB := 0, gfR := 0, failCount := 0 } ∧
    irq t = false ∧ t.mem = s.mem ∧ t.rom = s.rom ∧ t.inputs = s.inputs ∧ t.reads = s.reads)

/-! ### The field (42_galois.md) -/

/-- R200, R201: EXP is built by iterative doubling with reduction by 0x11D, EXP[i mod 255] for every integer i; its 255 values
are the non-zero elements; LOG inverts it and LOG[0] is undefined. -/
def Obligations.ExpAndLogTables : Prop :=
  gfExp 0 = 1 ∧
  (∀ i : Int, (gfExp (i + 1)).toNat =
    (if 2 * (gfExp i).toNat < 256 then 2 * (gfExp i).toNat else (2 * (gfExp i).toNat) ^^^ 0x11D)) ∧
  (∀ i : Int, gfExp (i + 255) = gfExp i) ∧
  (∀ i : Nat, i < 255 → gfLog (gfExp i) = some i) ∧
  (∀ a : Elem, a ≠ 0 → ∃ i : Nat, i < 255 ∧ gfLog a = some i ∧ gfExp i = a) ∧
  gfLog 0 = none

/-- R203–R206: the operations on powers of the generator, and with 0. -/
def Obligations.FieldOperationsOnPowers : Prop :=
  (∀ i j : Int, gfMul (gfExp i) (gfExp j) = gfExp (i + j)) ∧
  (∀ a : Elem, gfMul a 0 = 0 ∧ gfMul 0 a = 0 ∧ gfDiv a 0 = none) ∧
  (∀ i j : Int, gfDiv (gfExp i) (gfExp j) = some (gfExp (i - j)) ∧ gfDiv 0 (gfExp j) = some 0) ∧
  (∀ i : Int, gfInv (gfExp i) = some (gfExp (255 - i))) ∧ gfInv 0 = none ∧
  (∀ i e : Int, gfPow (gfExp i) e = some (gfExp (i * e))) ∧ (∀ e : Int, gfPow 0 e = none)

/-- R211: with ⊕ as addition and gf_mul as multiplication the 256 elements are a field of characteristic 2. -/
def Obligations.FieldLaws : Prop :=
  (∀ a b : Elem, gfMul a b = gfMul b a) ∧
  (∀ a b c : Elem, gfMul (gfMul a b) c = gfMul a (gfMul b c)) ∧
  (∀ a b c : Elem, gfMul a (gfAdd b c) = gfAdd (gfMul a b) (gfMul a c)) ∧
  (∀ a b c : Elem, gfAdd a b = gfAdd b a ∧ gfAdd (gfAdd a b) c = gfAdd a (gfAdd b c)) ∧
  (∀ a : Elem, gfAdd a 0 = a ∧ gfMul a 1 = a ∧ gfAdd a a = 0) ∧
  (∀ a : Elem, a ≠ 0 → ∃ b, gfInv a = some b ∧ gfMul a b = 1) ∧
  (∀ a b : Elem, gfMul a b = 0 ↔ a = 0 ∨ b = 0)

/-- GF_ADD (R213). -/
def Obligations.GfAddXorsOperands : Prop :=
  encode .gfAdd = 0x00000010 ∧ gfAdd 0x53 0xCA = 0x99 ∧
  ∀ s : State, ∃ t, exec .gfAdd s = .next t ∧ WroteGfR (s.regs.gfA ^^^ s.regs.gfB.setWidth 8) s t

/-- GF_MUL (R214). -/
def Obligations.GfMulMultiplies : Prop :=
  encode .gfMul = 0x00000011 ∧ gfMul 0x53 0xCA = 0x8F ∧ gfMul 0x80 0x02 = 0x1D ∧
  (∀ a : Elem, gfMul a 0 = 0 ∧ gfMul 0 a = 0 ∧ gfMul a 1 = a ∧ gfMul 1 a = a) ∧
  ∀ s : State, ∃ t, exec .gfMul s = .next t ∧ WroteGfR (gfMul s.regs.gfA (s.regs.gfB.setWidth 8)) s t

/-- GF_DIV (R215): E_DIV_ZERO for divisor 0, else the quotient, which times the divisor is the dividend. -/
def Obligations.GfDivDivides : Prop :=
  encode .gfDiv = 0x00000012 ∧ gfDiv 0x53 0xCA = some 0x6D ∧
  (∀ b : Elem, b ≠ 0 → gfDiv 0 b = some 0 ∧ gfDiv b b = some 1) ∧
  ∀ s : State,
    (s.regs.gfB.setWidth 8 = (0 : Elem) → ∃ t, exec .gfDiv s = .next t ∧ RaisedError .divZero s t) ∧
    (s.regs.gfB.setWidth 8 ≠ (0 : Elem) → ∃ t v, exec .gfDiv s = .next t ∧ gfDiv s.regs.gfA (s.regs.gfB.setWidth 8) = some v ∧
      gfMul v (s.regs.gfB.setWidth 8) = s.regs.gfA ∧ WroteGfR v s t)

/-- GF_INV (R216): E_DIV_ZERO for operand 0, else the inverse; inverting twice gives the operand back. -/
def Obligations.GfInvInverts : Prop :=
  encode .gfInv = 0x00000013 ∧ gfInv 0x02 = some 0x8E ∧ gfInv 1 = some 1 ∧
  (∀ a v : Elem, gfInv a = some v → gfInv v = some a) ∧
  ∀ s : State,
    (s.regs.gfA = 0 → ∃ t, exec .gfInv s = .next t ∧ RaisedError .divZero s t) ∧
    (s.regs.gfA ≠ 0 → ∃ t v, exec .gfInv s = .next t ∧ gfInv s.regs.gfA = some v ∧ gfMul s.regs.gfA v = 1 ∧ WroteGfR v s t)

/-- GF_POW (R217): E_LOG_ZERO for base 0, even for exponent 0; else EXP[(LOG[GF_A]·e) mod 255] with e signed. -/
def Obligations.GfPowRaisesToSignedExponent : Prop :=
  encode .gfPow = 0x00000014 ∧ gfPow 0x02 8 = some 0x1D ∧ gfPow 0x03 (-1) = some 0xF4 ∧
  gfPow 0x02 (-32768) = some 0xCC ∧ gfPow 0x02 32767 = some 0xCC ∧
  (∀ a : Elem, a ≠ 0 → gfPow a 0 = some 1 ∧ gfPow a 255 = some 1 ∧ gfPow a (-1) = gfInv a) ∧
  ∀ s : State,
    (s.regs.gfA = 0 → ∃ t, exec .gfPow s = .next t ∧ RaisedError .logZero s t) ∧
    (s.regs.gfA ≠ 0 → ∃ t n, exec .gfPow s = .next t ∧ gfLog s.regs.gfA = some n ∧
      WroteGfR (gfExp (n * s.regs.gfB.toInt)) s t)

/-- GF_EXP (R218): the exponent is GF_A read unsigned, mod 255. -/
def Obligations.GfExpLooksUpAntilog : Prop :=
  encode .gfExp = 0x00000015 ∧ gfExp 255 = 1 ∧ gfExp 0 = 1 ∧ gfExp 200 = 0x1C ∧
  ∀ s : State, ∃ t, exec .gfExp s = .next t ∧ WroteGfR (expByte (s.regs.gfA.toNat % 255)) s t

/-- GF_LOG (R219): E_LOG_ZERO for operand 0, else LOG[GF_A], always in 0..254. -/
def Obligations.GfLogLooksUpLogarithm : Prop :=
  encode .gfLog = 0x00000016 ∧ gfLog 1 = some 0 ∧ gfLog 0xFF = some 175 ∧ gfLog 0x53 = some 206 ∧ gfLog 0x1D = some 8 ∧
  ∀ s : State,
    (s.regs.gfA = 0 → ∃ t, exec .gfLog s = .next t ∧ RaisedError .logZero s t) ∧
    (s.regs.gfA ≠ 0 → ∃ t n, exec .gfLog s = .next t ∧ gfLog s.regs.gfA = some n ∧ n < 255 ∧ WroteGfR (BitVec.ofNat 8 n) s t)

/-- POLY_EVAL (R220): the block's VAL fields, most significant first, by Horner's method at GF_A; at 0 the last value, at 1 the
XOR of all. -/
def Obligations.PolyEvalEvaluatesBlock : Prop :=
  (∀ k : BitVec 8, encode (.polyEval k) = k.setWidth 32 <<< 8 ||| 0x06) ∧
  (∀ p : List Elem, p ≠ [] → polyEval p 0 = p.getLastD 0 ∧ polyEval p 1 = p.foldl gfAdd 0) ∧
  ∀ (k : BitVec 8) (s : State),
    (¬ VersionValid s → ∃ t, exec (.polyEval k) s = .next t ∧ RaisedError .badVersion s t) ∧
    ∀ g, geometry s = some g →
      (g.blocks ≤ k.toNat → ∃ t, exec (.polyEval k) s = .next t ∧ RaisedError .badBlock s t) ∧
      (k.toNat < g.blocks → ∃ t, exec (.polyEval k) s = .next t ∧
        WroteGfR (polyEval (blockMessage s.draws s.mem k.toNat (g.blockLen k.toNat)) s.regs.gfA) s t ∧
        ∀ i : Nat, i < g.ec → s.regs.gfA = gfExp i → (blockSyndromes s g k.toNat)[i]? = some t.regs.gfR)

/-- R209 with R12: Horner's method gives the sum of the coefficients times the powers of the point. -/
def Obligations.HornerIsSumOfPowers : Prop :=
  ∀ (p : List Elem) (x : Elem),
    polyEval p x = (p.zipIdx.map fun e => gfMul e.1 ((fun y => gfMul y x)^[p.length - 1 - e.2] 1)).foldl gfAdd 0

/-- R210: dividend = quotient · divisor + remainder, with the lengths the rule gives; by x^m the remainder is the dividend's
last m coefficients. -/
def Obligations.PolyDivisionIdentity : Prop :=
  (∀ (dd : List Elem) (lead : Elem) (rest : List Elem), lead ≠ 0 → rest.length < dd.length →
    ∃ quo rem, polyDiv dd (lead :: rest) = some (quo, rem) ∧ quo.length = dd.length - rest.length ∧ rem.length = rest.length ∧
      polyAdd (polyMul quo (lead :: rest)) rem = dd) ∧
  (∀ (dd : List Elem) (m : Nat), m ≤ dd.length →
    polyDiv dd (1 :: List.replicate m 0) = some (dd.take (dd.length - m), dd.drop (dd.length - m)))

/-! ### Traversal (40_traversal.md) -/

/-- R141, R142: the loop equals the closed form; every coordinate with x ≠ 6 is visited exactly once and column 6 never, so
the sequence has N·(N−1) entries. -/
def Obligations.VisitOrderClosedForm : Prop :=
  ∀ v n : Nat, 1 ≤ v → v ≤ 40 → n = 4 * v + 17 →
    (visitOrder n).length = n * (n - 1) ∧
    (∀ i, i < n * (n - 1) →
      let p  := i / (2 * n)
      let r  := i % (2 * n) / 2
      let xr := if 7 ≤ n - 1 - 2 * p then n - 1 - 2 * p else n - 2 - 2 * p
      (visitOrder n)[i]? = some (xr - i % 2, if p % 2 = 0 then n - 1 - r else r)) ∧
    (∀ x y, (x, y) ∈ visitOrder n ↔ x < n ∧ y < n ∧ x ≠ 6) ∧ (visitOrder n).Nodup

/-- R143, R146: what a TRAVERSE that finds no reserved code writes: the trace entry of every visited coordinate in visit order,
the bit of every visited module that is not skipped, BIT_COUNT and TRACE_COUNT, and no other byte or register. The emitting
pass reads each cell under draw number draws + 1, the check pass under draws; for a written cell both read the same. -/
def Obligations.TraverseWritesWalk : Prop :=
  ∀ (s : State) (g : Geometry), geometry s = some g →
    (∀ p ∈ visitOrder g.size, (modCell s.draws s.mem p.1 p.2).skip = true ∨ (modCell s.draws s.mem p.1 p.2).val ≠ 3) →
    ∃ (t : State) (bits : List TriCode),
      bits = ((visitOrder g.size).filter fun p => !(modCell (s.draws + 1) s.mem p.1 p.2).skip).map (fun p =>
        let val := (modCell (s.draws + 1) s.mem p.1 p.2).val
        if val = 2 then 2 else if maskBit s.rom.maskFn s.regs.maskId p.1 p.2 then val ^^^ 1 else val) ∧
      exec .traverse s = .next t ∧ Completed .none s t ∧ t.status.syndNz = s.status.syndNz ∧
      t.regs = { s.regs with bitCount := t.regs.bitCount, traceCount := t.regs.traceCount } ∧
      t.regs.bitCount.toNat = bits.length ∧ t.regs.traceCount.toNat = g.size * (g.size - 1) ∧
      (∀ i p, (visitOrder g.size)[i]? = some p → ∀ d, (readEntry d t.mem .trace i).toNat =
        p.1 + 256 * p.2 + (if (modCell (s.draws + 1) s.mem p.1 p.2).skip then 65536 else 0)) ∧
      (∀ i b, bits[i]? = some b → ∀ d, bitCode d t.mem i = b) ∧
      SameOutside (fun a => inEntries .trace 0 (g.size * (g.size - 1)) a ∨ inEntries .bits 0 bits.length a) s.mem t.mem

/-- R147 (b): TRAVERSE reads only cells it visits. Two states that agree on every byte of the cells with x, y < N and x ≠ 6, and
differ in memory elsewhere at most, give the same STATUS, registers, bits and trace. -/
def Obligations.TraverseReadsOnlyVisitedCells : Prop :=
  ∀ (s t t' : State) (g : Geometry) (m' : Memory), geometry s = some g →
    (∀ x y, x < g.size → y < g.size → x ≠ 6 → ∀ a, inEntries .mod (modIndex x y) 1 a → getByte m' a = getByte s.mem a) →
    exec .traverse s = .next t → exec .traverse (s.setMem m') = .next t' →
    t'.status = t.status ∧ t'.regs = t.regs ∧
      (t.status.errCode = .none →
        (∀ i, i < t.regs.bitCount.toNat → ∀ d, readEntry d t'.mem .bits i = readEntry d t.mem .bits i) ∧
        (∀ i, i < t.regs.traceCount.toNat → ∀ d, readEntry d t'.mem .trace i = readEntry d t.mem .trace i))

/-! ### Deinterleaving (41_deinterleave.md) -/

/-- R176: the loop of R174 deals column by column: for each place j in turn, to every block whose target exceeds j, in
increasing order. -/
def Obligations.DealIsColumnByColumn : Prop :=
  ∀ (nb : Nat) (target : Nat → Nat),
    dealOrder nb target ((List.range nb).map target).sum =
      (List.range ((List.range nb).map target).sum).flatMap fun j =>
        ((List.range nb).filter fun k => j < target k).map fun k => (k, j)

/-- R172, R173: codeword i is built from BITS[8i] to BITS[8i+7], the first its bit 7 and the last its bit 0; it is unknown when
one of them is U, and a bit of VAL is 1 exactly when the stream bit is 1 (an unknown bit is 0). -/
def Obligations.CodewordAssembly : Prop :=
  ∀ (d : Nat) (m : Memory) (i : Nat),
    ((streamCodeword d m i).u = true ↔ ∃ q, q < 8 ∧ bitCode d m (8 * i + q) = 2) ∧
    ∀ q, q < 8 → ((streamCodeword d m i).val.getLsbD (7 - q) = true ↔ bitCode d m (8 * i + q) = 1)

/-- R170, R179: what a DEINTERLEAVE with enough legal bits writes. Codeword i of the data segment goes where the deal puts it,
the EC segment's after each block's data; every position of every block is reached, and no other byte and no register but
STATUS changes. -/
def Obligations.DeinterleaveFillsBlocks : Prop :=
  ∀ (s : State) (g : Geometry), VecTableWf (vecEntries s.rom.vecTable) → geometry s = some g →
    8 * (g.dataTotal + g.ecTotal) ≤ s.regs.bitCount.toNat →
    (∀ i, i < 8 * (g.dataTotal + g.ecTotal) → bitCode s.draws s.mem i ≠ 3) →
    ∃ t, exec .deinterleave s = .next t ∧ Completed .none s t ∧ t.status.syndNz = s.status.syndNz ∧ t.regs = s.regs ∧
      (∀ i k j, (dealOrder g.blocks g.dataLen g.dataTotal)[i]? = some (k, j) →
        k < g.blocks ∧ j < g.dataLen k ∧ ∀ d, blkEntry d t.mem k j = streamCodeword s.draws s.mem i) ∧
      (∀ i k j, (dealOrder g.blocks (fun _ => g.ec) g.ecTotal)[i]? = some (k, j) →
        k < g.blocks ∧ j < g.ec ∧ ∀ d, blkEntry d t.mem k (g.dataLen k + j) = streamCodeword s.draws s.mem (g.dataTotal + i)) ∧
      (∀ k, k < g.blocks → (∀ j, j < g.dataLen k → (k, j) ∈ dealOrder g.blocks g.dataLen g.dataTotal) ∧
        ∀ j, j < g.ec → (k, j) ∈ dealOrder g.blocks (fun _ => g.ec) g.ecTotal) ∧
      SameOutside (fun a => ∃ k, k < g.blocks ∧ inEntries .blk (blkIndex k 0) (g.blockLen k) a) s.mem t.mem

/-- R177: DEINTERLEAVE reads only the first 8(D+E) bits. Two states that agree on those bits' bytes, and differ in memory
elsewhere at most, give the same STATUS, registers and blocks. -/
def Obligations.DeinterleaveIgnoresRemainder : Prop :=
  ∀ (s t t' : State) (g : Geometry) (m' : Memory), VecTableWf (vecEntries s.rom.vecTable) → geometry s = some g →
    (∀ a, inEntries .bits 0 (8 * (g.dataTotal + g.ecTotal)) a → getByte m' a = getByte s.mem a) →
    exec .deinterleave s = .next t → exec .deinterleave (s.setMem m') = .next t' →
    t'.status = t.status ∧ t'.regs = t.regs ∧
      (t.status.errCode = .none → ∀ k j, k < g.blocks → j < g.blockLen k → ∀ d, blkEntry d t'.mem k j = blkEntry d t.mem k j)

/-! ### Reed-Solomon (43_reed_solomon.md) -/

/-- SYNDROME (R241): SYND[i] = S_i for i < t, SYND_NZ, and nothing else; E_BAD_VERSION, then E_BAD_BLOCK. -/
def Obligations.SyndromeStoresSyndromes : Prop :=
  (∀ k : BitVec 8, encode (.syndrome k) = k.setWidth 32 <<< 8 ||| 0x03) ∧
  ∀ (k : BitVec 8) (s : State),
    (¬ VersionValid s → ∃ t, exec (.syndrome k) s = .next t ∧ RaisedError .badVersion s t) ∧
    ∀ g, geometry s = some g →
      (g.blocks ≤ k.toNat → ∃ t, exec (.syndrome k) s = .next t ∧ RaisedError .badBlock s t) ∧
      (k.toNat < g.blocks → ∃ t, exec (.syndrome k) s = .next t ∧ Completed .none s t ∧ t.regs = s.regs ∧
        (∀ i, i < g.ec → ∀ d, readEntry d t.mem .synd i =
          (polyEval (blockMessage s.draws s.mem k.toNat (g.blockLen k.toNat)) (gfExp i)).setWidth 32) ∧
        (t.status.syndNz = true ↔
          ∃ i, i < g.ec ∧ polyEval (blockMessage s.draws s.mem k.toNat (g.blockLen k.toNat)) (gfExp i) ≠ 0) ∧
        SameOutside (inEntries .synd 0 g.ec) s.mem t.mem)

/-- R243, R244: the erasure list by unknown flags, in increasing order; and the explicit list in memory order, refused for a
count above 256 or a position outside the block, repeated positions allowed. -/
def Obligations.ErasureListForms : Prop :=
  ∀ (k n : Nat) (s : State),
    (∃ pos, erasureList true k n s = some pos ∧ pos.Pairwise (· < ·) ∧
      ∀ j, j ∈ pos ↔ j < n ∧ (blkEntry s.draws s.mem k j).u = true) ∧
    (256 < s.regs.eraseCount.toNat → erasureList false k n s = none) ∧
    (s.regs.eraseCount.toNat ≤ 256 →
      ((∃ m, m < s.regs.eraseCount.toNat ∧ n ≤ (readEntry s.draws s.mem .erasure m).toNat) → erasureList false k n s = none) ∧
      ((∀ m, m < s.regs.eraseCount.toNat → (readEntry s.draws s.mem .erasure m).toNat < n) →
        ∃ pos, erasureList false k n s = some pos ∧ pos.length = s.regs.eraseCount.toNat ∧
          ∀ m, m < s.regs.eraseCount.toNat → pos[m]? = some (readEntry s.draws s.mem .erasure m).toNat))

/-- CORRECT (R252, R251, R254) on a legal erasure list: SYND, SYND_NZ and BSTAT[k] always; the corrected codewords with U = 0
at the erasures on success; BLK untouched and E_UNCORRECTABLE otherwise; and no other byte and no other register. -/
def Obligations.CorrectWritesBlock : Prop :=
  ∀ (k : BitVec 8) (auto : Bool) (s : State) (g : Geometry) (pos : List Nat), VecTableWf (vecEntries s.rom.vecTable) →
    geometry s = some g → k.toNat < g.blocks → erasureList auto k.toNat (g.blockLen k.toNat) s = some pos →
    ∃ t, exec (.correct k auto) s = .next t ∧ t.regs = s.regs ∧
      (t.status.syndNz = true ↔ ∃ x ∈ blockSyndromes s g k.toNat, x ≠ 0) ∧
      (∀ i x, (blockSyndromes s g k.toNat)[i]? = some x → ∀ d, readEntry d t.mem .synd i = x.setWidth 32) ∧
      (∀ d, (readEntry d t.mem .bstat k.toNat).toNat =
        (errByte t.status.errCode).toNat + (if t.status.syndNz then 256 else 0) + 65536 * pos.length) ∧
      (blockCorrected s g k.toNat pos = none → Completed .uncorrectable s t ∧
        SameOutside (fun a => inEntries .synd 0 g.ec a ∨ inEntries .bstat k.toNat 1 a) s.mem t.mem) ∧
      (∀ out, blockCorrected s g k.toNat pos = some out → Completed .none s t ∧
        (∀ p ∈ pos, ∀ d, some (blkEntry d t.mem k.toNat p) = out[p]?.map fun v => { u := false, val := v }) ∧
        SameOutside (fun a => inEntries .synd 0 g.ec a ∨ inEntries .bstat k.toNat 1 a ∨
          ∃ p ∈ pos, inEntries .blk (blkIndex k.toNat p) 1 a) s.mem t.mem)

/-- R245: with more erasures than t the result is E_UNCORRECTABLE, no byte of BLK changes, and SYND and SYND_NZ hold the block's
syndromes even so. -/
def Obligations.TooManyErasuresAreUncorrectable : Prop :=
  ∀ (k : BitVec 8) (auto : Bool) (s : State) (g : Geometry) (pos : List Nat), VecTableWf (vecEntries s.rom.vecTable) →
    geometry s = some g → k.toNat < g.blocks → erasureList auto k.toNat (g.blockLen k.toNat) s = some pos → g.ec < pos.length →
    ∃ t, exec (.correct k auto) s = .next t ∧ Completed .uncorrectable s t ∧
      (∀ a, inEntries .blk 0 32768 a → getByte t.mem a = getByte s.mem a) ∧
      (∀ i x, (blockSyndromes s g k.toNat)[i]? = some x → ∀ d, readEntry d t.mem .synd i = x.setWidth 32) ∧
      (t.status.syndNz = true ↔ ∃ x ∈ blockSyndromes s g k.toNat, x ≠ 0)

/-- R247: the errata locator is the product of the factors X_m·x ⊕ 1: it has ν + 1 coefficients, constant term 1, leading
coefficient Π X_m, and for ν = 0 it is [1]. -/
def Obligations.LocatorIsProductOfFactors : Prop :=
  errataLocator [] = [1] ∧
  ∀ xs : List Elem, (errataLocator xs).length = xs.length + 1 ∧ (errataLocator xs).getLastD 0 = 1 ∧
    (errataLocator xs).headD 0 = xs.foldl gfMul 1 ∧
    ∀ y : Elem, polyEval (errataLocator xs) y = (xs.map fun x => gfAdd 1 (gfMul x y)).foldl gfMul 1

/-- R248: rem is the last t + 1 coefficients of reverse([0] ++ S) · Λ, and always has exactly t + 1. -/
def Obligations.EvaluatorIsLowCoefficients : Prop :=
  ∀ synd loc : List Elem, loc ≠ [] →
    ∃ rem, evaluatorRemainder synd loc = some rem ∧ rem.length = synd.length + 1 ∧
      ∃ high, polyMul (0 :: synd).reverse loc = high ++ rem

/-- R250: for positions of a block of at most 255 codewords, a Forney denominator is zero exactly when two positions are
equal. The equivalence is the spec's own derivation. -/
def Obligations.DenominatorZeroIffRepeatedPosition : Prop :=
  ∀ (n : Nat) (pos : List Nat) (rem : List Elem), n ≤ 255 → (∀ p ∈ pos, p < n) →
    ((forneyMagnitudes rem (pos.map (locatorX n))).isSome = true ↔ pos.Nodup)

/-- R255: when a block differs from a valid codeword only at a set of at most t distinct positions and the erasure list is
that set in any order, CORRECT succeeds and leaves every position equal to the valid codeword. Positions that were never
written are read under the same draw before and after. -/
def Obligations.CorrectRestoresValidCodeword : Prop :=
  ∀ (k : BitVec 8) (auto : Bool) (s : State) (g : Geometry) (pos : List Nat) (valid : List Elem),
    VecTableWf (vecEntries s.rom.vecTable) → geometry s = some g → k.toNat < g.blocks →
    erasureList auto k.toNat (g.blockLen k.toNat) s = some pos → pos.Nodup → pos.length ≤ g.ec →
    valid.length = g.blockLen k.toNat → (∀ i : Nat, i < g.ec → polyEval valid (gfExp i) = 0) →
    (∀ j, j < g.blockLen k.toNat → j ∉ pos → valid[j]? = some (blkEntry s.draws s.mem k.toNat j).val) →
    ∃ t, exec (.correct k auto) s = .next t ∧ Completed .none s t ∧
      blockMessage s.draws t.mem k.toNat (g.blockLen k.toNat) = valid ∧
      ∀ p ∈ pos, (blkEntry s.draws t.mem k.toNat p).u = false

/-- R256 (g): the order of the erasure list does not change the corrected message. -/
def Obligations.ErasureOrderIsIrrelevant : Prop :=
  ∀ (msg synd : List Elem) (pos pos' : List Nat), msg.length ≤ 255 → (∀ p ∈ pos, p < msg.length) → pos.Perm pos' →
    correctedMessage msg synd pos' = correctedMessage msg synd pos

/-- R339, R256 (j): after a successful CORRECT k, auto on a written block, a second one finds no erasure, succeeds, and changes
no byte of BLK. -/
def Obligations.SecondAutoCorrectChangesNothing : Prop :=
  ∀ (k : BitVec 8) (s t : State) (g : Geometry), Inv s → geometry s = some g → k.toNat < g.blocks →
    (∀ j, j < g.blockLen k.toNat → (getByte s.mem (entryAddr .blk (blkIndex k.toNat j))).isSome = true) →
    exec (.correct k true) s = .next t → t.status.errCode = .none →
    erasureList true k.toNat (g.blockLen k.toNat) t = some [] ∧
    ∃ u, exec (.correct k true) t = .next u ∧ Completed .none t u ∧
      ∀ a, inEntries .blk 0 32768 a → getByte u.mem a = getByte t.mem a

/-- CORRECT_ALL (R253, R303): the loop's result is each block's own result computed from the state at acceptance: BSTAT[k],
the corrected codewords or an untouched block, FAIL_COUNT the number of failures, SYND_NZ the OR, SYND the last block's. -/
def Obligations.CorrectAllIsBlockByBlock : Prop :=
  ∀ (s : State) (g : Geometry), VecTableWf (vecEntries s.rom.vecTable) → geometry s = some g →
    ∃ t, exec .correctAll s = .next t ∧
      Completed (if t.regs.failCount = 0 then .none else .uncorrectable) s t ∧
      t.regs = { s.regs with failCount := t.regs.failCount } ∧
      t.regs.failCount.toNat = (List.range g.blocks).countP (fun k => blockCorrected s g k (blockFlagged s g k) == none) ∧
      (t.status.syndNz = true ↔ ∃ k, k < g.blocks ∧ ∃ x ∈ blockSyndromes s g k, x ≠ 0) ∧
      (∀ i x, (blockSyndromes s g (g.blocks - 1))[i]? = some x → ∀ d, readEntry d t.mem .synd i = x.setWidth 32) ∧
      (∀ k, k < g.blocks →
        (∀ d, readEntry d t.mem .bstat k =
          bstatWord (if blockCorrected s g k (blockFlagged s g k) = none then .uncorrectable else .none)
            (anyNonzero (blockSyndromes s g k)) (blockFlagged s g k).length) ∧
        (blockCorrected s g k (blockFlagged s g k) = none →
          ∀ a, inEntries .blk (blkIndex k 0) 256 a → getByte t.mem a = getByte s.mem a) ∧
        (∀ out, blockCorrected s g k (blockFlagged s g k) = some out →
          ∀ p ∈ blockFlagged s g k, ∀ d, some (blkEntry d t.mem k p) = out[p]?.map fun v => { u := false, val := v })) ∧
      SameOutside (fun a => inEntries .synd 0 g.ec a ∨ inEntries .bstat 0 g.blocks a ∨
        ∃ k, k < g.blocks ∧ ∃ p ∈ blockFlagged s g k, inEntries .blk (blkIndex k p) 1 a) s.mem t.mem

/-! ### Rules over all commands -/

/-- No command writes ERASURE (10_state.md R56), none writes MOD (40_traversal.md R146 for TRAVERSE), only TRAVERSE writes BITS
and TRACE, only the correction and syndrome commands SYND, only CORRECT and CORRECT_ALL BSTAT, and only they and
DEINTERLEAVE BLK (R53–R58). -/
def Obligations.CommandsWriteOnlyTheirMemories : Prop :=
  ∀ (i : Instr) (s t : State), VecTableWf (vecEntries s.rom.vecTable) → exec i s = .next t →
    SameOutside (fun a => ∃ w, inEntries w 0 (windowSize w) a ∧
      match i with
      | .traverse => w = .bits ∨ w = .trace
      | .deinterleave => w = .blk
      | .syndrome _ => w = .synd
      | .correct _ _ | .correctAll => w = .synd ∨ w = .bstat ∨ w = .blk
      | _ => False) s.mem t.mem

/-- Which command writes which register: but for RESET, GF_R only the field commands and POLY_EVAL (10_state.md R60), BIT_COUNT
and TRACE_COUNT only TRAVERSE (R38, R39), FAIL_COUNT only CORRECT_ALL (R44), SYND_NZ only the three Reed-Solomon commands
(R62), and no command any other register (R62, 20_memory.md R94 for CMD_LAST). -/
def Obligations.CommandsWriteOnlyTheirRegisters : Prop :=
  ∀ (i : Instr) (s t : State), i ≠ .reset → exec i s = .next t →
    t.regs = { s.regs with gfR := t.regs.gfR, bitCount := t.regs.bitCount, traceCount := t.regs.traceCount, failCount := t.regs.failCount } ∧
    (t.regs.gfR ≠ s.regs.gfR → i ∈ [Instr.gfAdd, .gfMul, .gfDiv, .gfInv, .gfPow, .gfExp, .gfLog] ∨ ∃ k, i = .polyEval k) ∧
    (t.regs.bitCount ≠ s.regs.bitCount ∨ t.regs.traceCount ≠ s.regs.traceCount → i = .traverse) ∧
    (t.regs.failCount ≠ s.regs.failCount → i = .correctAll) ∧
    (t.status.syndNz ≠ s.status.syndNz → i = .correctAll ∨ (∃ k, i = .syndrome k) ∨ ∃ k auto, i = .correct k auto)

/-! ### The host port (20_memory.md) -/

/-- R34: a write to CMD while BUSY = 0 is accepted, whatever the word, and changes CMD_LAST, PENDING, BUSY and DONE alone; while
BUSY = 1 it is dropped and sets BUSERR; a reserved word is accepted and then completes with E_BAD_CMD; a read of CMD returns
the last accepted word, 0 after reset. -/
def Obligations.CommandIssue : Prop :=
  ∀ (s : State) (v : Word),
    (s.status.busy = false → portWrite s 0x0000C 0xF v =
      { s with regs := { s.regs with cmdLast := v }, pending := v, status := { s.status with busy := true, done := false } }) ∧
    (s.status.busy = true → portWrite s 0x0000C 0xF v = { s with status := { s.status with busErr := true } }) ∧
    (∀ e, decode v = .error e → ∃ t, engineStep (acceptCommand v s) = .next t ∧ RaisedError .badCmd (acceptCommand v s) t) ∧
    readValue s 0x0000C 0xF = s.regs.cmdLast ∧ readReg State.reset .cmd = 0

/-- R81, R85: an access that is narrower than a word, misaligned, or at a reserved address is refused: a write changes nothing
but BUSERR, a read returns 0 and sets BUSERR. That this is so with BUSY = 1 too, although R87 speaks of reads then, is the
model's reading (log 12); that a read uses up one draw number is the model's own (log 10). -/
def Obligations.RefusedAccesses : Prop :=
  ∀ (s : State) (addr : Addr) (be : BitVec 4) (v : Word),
    (be ≠ 0xF ∨ addr.toNat % 4 ≠ 0 ∨ (0x48 ≤ addr.toNat ∧ addr.toNat < 0x400) ∨
      (0xE00 ≤ addr.toNat ∧ addr.toNat < 0x40000) ∨ 0xE0000 ≤ addr.toNat) →
    portWrite s addr be v = { s with status := { s.status with busErr := true } } ∧
    portRead s addr be =
      { s with status := { s.status with busErr := true }, reads := 0 :: s.reads, draws := s.draws + 1 }

/-- R83: the address map: what each word address names, each of the eighteen registers at the offset that 10_state.md §2 gives
it, and which windows the host may write. -/
def Obligations.AddressMap : Prop :=
  (∀ addr : Addr, addr.toNat % 4 = 0 →
    (addr.toNat < 0x48 → ∃ r, regMap[addr.toNat / 4]? = some r ∧ target addr = .reg r ∧ regOffset r = addr) ∧
    (0x400 ≤ addr.toNat → addr.toNat < 0x800 → target addr = .entry .erasure ((addr.toNat - 0x400) / 4)) ∧
    (0x800 ≤ addr.toNat → addr.toNat < 0xC00 → target addr = .entry .synd ((addr.toNat - 0x800) / 4)) ∧
    (0xC00 ≤ addr.toNat → addr.toNat < 0xE00 → target addr = .entry .bstat ((addr.toNat - 0xC00) / 4)) ∧
    (0x40000 ≤ addr.toNat → addr.toNat < 0x80000 → target addr = .entry .mod ((addr.toNat - 0x40000) / 4)) ∧
    (0x80000 ≤ addr.toNat → addr.toNat < 0xA0000 → target addr = .entry .bits ((addr.toNat - 0x80000) / 4)) ∧
    (0xA0000 ≤ addr.toNat → addr.toNat < 0xC0000 → target addr = .entry .trace ((addr.toNat - 0xA0000) / 4)) ∧
    (0xC0000 ≤ addr.toNat → addr.toNat < 0xE0000 → target addr = .entry .blk ((addr.toNat - 0xC0000) / 4)) ∧
    ((0x48 ≤ addr.toNat ∧ addr.toNat < 0x400) ∨ (0xE00 ≤ addr.toNat ∧ addr.toNat < 0x40000) ∨ 0xE0000 ≤ addr.toNat →
      target addr = .reserved)) ∧
  regMap.length = 18 ∧
  (∀ e ∈ [((0x00000 : Addr), Reg.id), (0x00004, .ctrl), (0x00008, .status), (0x0000C, .cmd), (0x00010, .version),
      (0x00014, .ecLevel), (0x00018, .maskId), (0x0001C, .bitCount), (0x00020, .traceCount), (0x00024, .eraseCount),
      (0x00028, .gfA), (0x0002C, .gfB), (0x00030, .gfR), (0x00034, .failCount), (0x00038, .geom), (0x0003C, .group0),
      (0x00040, .group1), (0x00044, .totals)], target e.1 = .reg e.2 ∧ regOffset e.2 = e.1) ∧
  (∀ w, windowWritable w = true ↔ w ∈ [Window.erasure, .mod, .bits, .blk])

/-- R84: with BUSY = 0, a write to entry i of a writable window stores exactly the defined fields and no other entry's bytes
change; a write to a read-only window changes nothing; a read returns the defined fields, all other bits 0, and has no
other effect. For MOD the index is {y, x}, for BLK {k, j}. -/
def Obligations.WindowAccess : Prop :=
  (∀ (s : State) (w : Window) (i : Nat) (v : Word), s.status.busy = false → i < windowSize w →
    (windowWritable w = true → ∃ m, portWrite s (BitVec.ofNat 20 (entryAddr w i)) 0xF v = { s with mem := m } ∧
      (∀ d, readEntry d m w i = v &&& windowMask w) ∧ SameOutside (inEntries w i 1) s.mem m) ∧
    (windowWritable w = false → portWrite s (BitVec.ofNat 20 (entryAddr w i)) 0xF v = s) ∧
    portRead s (BitVec.ofNat 20 (entryAddr w i)) 0xF =
      { s with reads := readEntry s.draws s.mem w i :: s.reads, draws := s.draws + 1 } ∧
    readEntry s.draws s.mem w i &&& ~~~(windowMask w) = 0) ∧
  [windowMask .erasure, windowMask .synd, windowMask .bstat, windowMask .mod, windowMask .bits, windowMask .trace, windowMask .blk] =
    [0x000000FF, 0x000000FF, 0x01FF01FF, 0x00000007, 0x00000003, 0x0001FFFF, 0x000001FF] ∧
  (∀ x y, x < 256 → modIndex x y % 256 = x ∧ modIndex x y / 256 = y) ∧
  (∀ k j, j < 256 → blkIndex k j % 256 = j ∧ blkIndex k j / 256 = k)

/-- R51, R86: with BUSY = 0, a read-write register stores exactly its defined bits and reads them back, nothing else changing
but itself; a write to a read-only register changes nothing; a read has no side effect. -/
def Obligations.RegisterAccess : Prop :=
  ∀ (s : State) (v : Word), s.status.busy = false →
    (∀ r ∈ [Reg.id, .traceCount, .gfR, .failCount, .geom, .group0, .group1, .totals], portWrite s (regOffset r) 0xF v = s) ∧
    (∀ e ∈ [(Reg.ctrl, (0x00000001 : Word)), (.version, 0x0000003F), (.ecLevel, 0x00000003), (.maskId, 0x00000007),
        (.bitCount, 0x0000FFFF), (.eraseCount, 0x000001FF), (.gfA, 0x000000FF), (.gfB, 0x0000FFFF)],
      ∃ r', portWrite s (regOffset e.1) 0xF v = { s with regs := r' } ∧
        readReg (portWrite s (regOffset e.1) 0xF v) e.1 = v &&& e.2 ∧
        ∀ q, q ∉ [e.1, Reg.geom, .group0, .group1, .totals] → readReg (portWrite s (regOffset e.1) 0xF v) q = readReg s q) ∧
    (∀ r, portRead s (regOffset r) 0xF = { s with reads := readReg s r :: s.reads, draws := s.draws + 1 }) ∧
    readReg s .id = 0x51520001

/-- R33: the layout of STATUS, and a host write, busy or not, clears each W1C bit written as 1 and leaves every other bit
unchanged. -/
def Obligations.StatusLayoutAndAcknowledge : Prop :=
  ∀ (s : State) (v : Word),
    (statusWord s.status).toNat = s.status.busy.toNat + 2 * s.status.done.toNat + 4 * s.status.err.toNat +
      8 * s.status.syndNz.toNat + 16 * s.status.busErr.toNat + 256 * (errByte s.status.errCode).toNat ∧
    ∃ st, portWrite s 0x00008 0xF v = { s with status := st } ∧
      statusWord st = statusWord s.status &&& ~~~(v &&& 0x00000016)

/-- R87: while BUSY = 1, writes to CTRL and STATUS take effect, every other write is dropped and sets BUSERR, reads of ID, CTRL,
STATUS and CMD return their current values, and every other read of a register or window returns an unspecified value and
has no other effect. -/
def Obligations.BusyAccess : Prop :=
  ∀ s : State, s.status.busy = true →
    (∀ v, portWrite s 0x00004 0xF v = { s with regs := { s.regs with ie := v.getLsbD 0 } }) ∧
    (∀ v, portWrite s 0x00008 0xF v = { s with status := statusAcknowledge v s.status }) ∧
    (∀ addr be v, addr ≠ 0x00004 → addr ≠ 0x00008 →
      portWrite s addr be v = { s with status := { s.status with busErr := true } }) ∧
    readValue s 0x00000 0xF = 0x51520001 ∧ readValue s 0x00004 0xF = (BitVec.ofBool s.regs.ie).setWidth 32 ∧
    readValue s 0x00008 0xF = statusWord s.status ∧ readValue s 0x0000C 0xF = s.regs.cmdLast ∧
    (∀ addr : Addr, addr.toNat % 4 = 0 → addr ∉ [(0x00000 : Addr), 0x00004, 0x00008, 0x0000C] → target addr ≠ .reserved →
      portRead s addr 0xF = { s with reads := Config.freeWord s.draws :: s.reads, draws := s.draws + 1 })

/-- R87, R89: a host write while a command runs does not disturb it: the command leaves the same memory, the same registers but
CTRL.IE, the same ERRCODE and SYND_NZ as without the write. A host read then changes neither memory nor registers nor the
command. -/
def Obligations.HostCannotDisturbRunningCommand : Prop :=
  ∀ (s : State), s.status.busy = true →
    (∀ addr be v, ∃ t t', engineStep s = .next t ∧ engineStep (portWrite s addr be v) = .next t' ∧
      t'.mem = t.mem ∧ { t'.regs with ie := t.regs.ie } = t.regs ∧ t'.status.errCode = t.status.errCode ∧
      t'.status.syndNz = t.status.syndNz) ∧
    (∀ addr be, (portRead s addr be).mem = s.mem ∧ (portRead s addr be).regs = s.regs ∧ (portRead s addr be).pending = s.pending ∧
      (portRead s addr be).status = { s.status with busErr := (portRead s addr be).status.busErr })

/-- R49, R45, R46: the geometry of a valid version, and the views GEOM, GROUP0, GROUP1 and TOTALS of it, whose fields hold the
quantities for every table that meets R9 (codewordsPerBlock of a group without blocks may not fit its field: log 13); for
an invalid version they read 0. For the default table the views of v1-L, the one entry R47 has from the source, are those
of 95_test_vectors.md §1 S1, and those of v5-M (§6.6), v5-Q (S1) and v40-H (D of R48) are as printed: EC_LEVEL counts M, L, H,
Q (R36). The default is PRESUMED but for v1-L (log 5). -/
def Obligations.GeometryViews : Prop :=
  ∀ s : State,
    (¬ VersionValid s → geometry s = none ∧ ∀ r ∈ [Reg.geom, .group0, .group1, .totals], readReg s r = 0) ∧
    (VersionValid s → VecTableWf (vecEntries s.rom.vecTable) →
      ∃ (g : Geometry) (e : VecEntry), geometry s = some g ∧
        (vecEntries s.rom.vecTable)[4 * (s.regs.version.toNat - 1) + s.regs.ecLevel.toNat]? = some e ∧
        g.size = 4 * s.regs.version.toNat + 17 ∧ g.ec = e.ec ∧ g.blocks = e.blocks ∧ g.dataTotal = e.dataTotal ∧
        g.ecTotal = e.ecTotal ∧
        (∀ k, k < g.blocks → g.blockLen k = g.dataLen k + g.ec ∧ 1 ≤ g.dataLen k ∧ g.blockLen k ≤ 255) ∧
        (readReg s .geom).toNat = g.size + 256 * g.blocks + 65536 * g.ec ∧
        (g.group0.codewords < 256 → (readReg s .group0).toNat = g.group0.blockCount + 256 * g.group0.codewords) ∧
        (g.group1.codewords < 256 → (readReg s .group1).toNat = g.group1.blockCount + 256 * g.group1.codewords) ∧
        (readReg s .totals).toNat = g.dataTotal + 65536 * g.ecTotal) ∧
    (s.rom.vecTable = .iso →
      (s.regs.version = 1 → s.regs.ecLevel = 1 → readReg s .geom = 0x00070115 ∧ readReg s .totals = 0x00070013 ∧
        readReg s .group0 = 0x00001301 ∧ readReg s .group1 = 0x00000000) ∧
      (s.regs.version = 5 → s.regs.ecLevel = 0 → readReg s .geom = 0x00180225) ∧
      (s.regs.version = 5 → s.regs.ecLevel = 3 → readReg s .totals = 0x0048003E ∧ readReg s .group0 = 0x00000F02 ∧
        readReg s .group1 = 0x00001002) ∧
      (s.regs.version = 40 → s.regs.ecLevel = 2 → (readReg s .totals).toNat % 65536 = 1276))

/-- R296: the line is CTRL.IE ∧ STATUS.DONE. A completion raises it exactly when IE = 1 after the command; accepting a command, acknowledging DONE,
clearing IE and a hardware reset lower it; masking leaves DONE as it was; enabling IE while DONE = 1 raises it at once. -/
def Obligations.InterruptLine : Prop :=
  (∀ s : State, irq s = true ↔ s.regs.ie = true ∧ s.status.done = true) ∧
  (∀ (i : Instr) (s t : State), exec i s = .next t → irq t = t.regs.ie) ∧
  ∀ s : State,
    (∀ v, s.status.busy = false → irq (portWrite s 0x0000C 0xF v) = false) ∧
    (∀ v : Word, v.getLsbD 1 = true → irq (portWrite s 0x00008 0xF v) = false) ∧
    (∀ v : Word, v.getLsbD 0 = false → irq (portWrite s 0x00004 0xF v) = false ∧
      (portWrite s 0x00004 0xF v).status = s.status) ∧
    (∀ v : Word, v.getLsbD 0 = true → irq (portWrite s 0x00004 0xF v) = s.status.done) ∧
    irq (hardwareReset s) = false

/-! ### Reset, invariants and runs (70_reset_and_hazards.md) -/

/-- R63, R330, R331: after a hardware reset, whatever ran before, every register reads its reset value, BUSY, DONE and the
interrupt line are 0, no byte of memory has been written, and the tables are as they were. -/
def Obligations.HardwareResetState : Prop :=
  ∀ s : State,
    readReg (hardwareReset s) .id = 0x51520001 ∧ (∀ r, r ≠ .id → readReg (hardwareReset s) r = 0) ∧
    (hardwareReset s).status.busy = false ∧ (hardwareReset s).status.done = false ∧ irq (hardwareReset s) = false ∧
    (∀ a, getByte (hardwareReset s).mem a = none) ∧ (hardwareReset s).rom = s.rom ∧
    (∀ r, readReg State.reset r = readReg (hardwareReset s) r) ∧ (∀ a, getByte State.reset.mem a = none)

/-- The invariant holds right after reset. -/
def Obligations.ResetMeetsInvariant : Prop := Inv State.reset

/-- Every step keeps the invariant: the table meets R9 and R181, memory is canonical, no byte stands outside its window or sets an
undefined bit (20_memory.md R83, R84), entries are written whole (R90), BUSY and DONE exclude each other (10_state.md R62),
TRACE_COUNT is N·(N−1) or 0 and FAIL_COUNT at most 128. -/
def Obligations.StepKeepsInvariant : Prop := ∀ s t : State, Inv s → step s = .next t → Inv t

/-- R341, R342: the run ends. With `n` moves waiting, n + 1 steps exhaust them and leave BUSY = 0, so every accepted command has
completed. -/
def Obligations.RunEnds : Prop :=
  ∀ s : State, VecTableLegal s.rom.vecTable → ∃ t, core.run (s.inputs.length + 1) s = .next t ∧ RunEnded t
end

