-- ==== Sys2Proof/Laws/Memory.lean ====
section
/-! SUPPORT. The laws of memory: a read after a write, what a write leaves alone, and the canonical form, for bytes, words,
entries and runs of entries. Proofs cite these and unfold none of the operations. -/

namespace Sys2Proof.Machine

/-! ### Bytes -/

theorem getByte_setByte (m : Memory) (a b : Nat) (v : BitVec 8) :
    getByte (setByte m a v) b = if b = a then some v else getByte m b := by
  induction m with
  | nil => simp [setByte, getByte, eq_comm]
  | cons c m ih =>
    obtain ⟨x, w⟩ := c
    simp only [setByte]
    split
    · simp only [getByte, eq_comm]
    · split
      · rename_i hax
        subst hax
        by_cases hb : b = a
        · simp [getByte, hb]
        · simp [getByte, hb, Ne.symm hb]
      · simp only [getByte, ih]
        by_cases hx : x = b
        · subst hx
          rw [if_pos rfl, if_neg (by omega), if_pos rfl]
        · rw [if_neg hx, if_neg hx]

@[simp] theorem getByte_setByte_self (m : Memory) (a : Nat) (v : BitVec 8) : getByte (setByte m a v) a = some v := by
  simp [getByte_setByte]

theorem getByte_setByte_of_ne (m : Memory) {a b : Nat} (v : BitVec 8) (h : b ≠ a) :
    getByte (setByte m a v) b = getByte m b := by
  simp [getByte_setByte, h]

theorem mem_setByte {m : Memory} {a : Nat} {v : BitVec 8} {c : Host.Cell} (h : c ∈ setByte m a v) :
    c = (a, v) ∨ c ∈ m := by
  induction m with
  | nil => simpa [setByte] using h
  | cons e m ih =>
    obtain ⟨x, w⟩ := e
    simp only [setByte] at h
    split at h
    · simpa using h
    · split at h
      · rcases List.mem_cons.1 h with h | h
        · exact .inl h
        · exact .inr (List.mem_cons_of_mem _ h)
      · rcases List.mem_cons.1 h with h | h
        · exact .inr (h ▸ List.mem_cons_self ..)
        · exact (ih h).imp_right (List.mem_cons_of_mem _)

/-- A byte write keeps the canonical form. -/
theorem setByte_wf {m : Memory} (h : m.wf) (a : Nat) (v : BitVec 8) : (setByte m a v).wf := by
  induction m with
  | nil => simp [setByte, Memory.wf]
  | cons c m ih =>
    obtain ⟨x, w⟩ := c
    obtain ⟨hx, hm⟩ := List.pairwise_cons.1 h
    simp only [setByte]
    split
    · rename_i hax
      refine List.pairwise_cons.2 ⟨fun e he => ?_, h⟩
      rcases List.mem_cons.1 he with rfl | he
      · exact hax
      · exact lt_trans hax (hx e he)
    · split
      · rename_i hax
        exact List.pairwise_cons.2 ⟨fun e he => hax ▸ hx e he, hm⟩
      · refine List.pairwise_cons.2 ⟨fun e he => ?_, ih hm⟩
        rcases mem_setByte he with rfl | he
        · show x < a
          omega
        · exact hx e he

theorem readByte_of_getByte {m m' : Memory} {a : Nat} (h : getByte m' a = getByte m a) (d : Nat) :
    readByte d m' a = readByte d m a := by
  simp [readByte, h]

/-! ### Words -/

theorem getByte_writeWord (m : Memory) (a b : Nat) (v : Word) :
    getByte (writeWord m a v) b =
      if b = a + 3 then some (byteOf v 3) else if b = a + 2 then some (byteOf v 2)
      else if b = a + 1 then some (byteOf v 1) else if b = a then some (byteOf v 0) else getByte m b := by
  simp [writeWord, getByte_setByte]

theorem getByte_writeWord_outside (m : Memory) {a b : Nat} (v : Word) (h : b < a ∨ a + 4 ≤ b) :
    getByte (writeWord m a v) b = getByte m b := by
  rw [getByte_writeWord]
  repeat rw [if_neg (by omega)]

theorem writeWord_wf {m : Memory} (h : m.wf) (a : Nat) (v : Word) : (writeWord m a v).wf :=
  setByte_wf (setByte_wf (setByte_wf (setByte_wf h ..) ..) ..) ..

theorem word_of_bytes (v : Word) : byteOf v 3 ++ byteOf v 2 ++ byteOf v 1 ++ byteOf v 0 = v := by
  apply BitVec.eq_of_getLsbD_eq
  intro i hi
  simp only [BitVec.getLsbD_append, byteOf, BitVec.getLsbD_extractLsb']
  split_ifs <;> rw [decide_eq_true (by omega), Bool.true_and] <;> congr 1 <;> omega

/-- A word read after it was written is the word, whatever the draw. -/
@[simp] theorem readWord_writeWord (d : Nat) (m : Memory) (a : Nat) (v : Word) : readWord d (writeWord m a v) a = v := by
  simp [readWord, readByte, getByte_writeWord, word_of_bytes]

theorem readWord_congr {m m' : Memory} {a : Nat} (h : ∀ b, a ≤ b → b < a + 4 → getByte m' b = getByte m b) (d : Nat) :
    readWord d m' a = readWord d m a := by
  have h0 := h a (by omega) (by omega)
  have h1 := h (a + 1) (by omega) (by omega)
  have h2 := h (a + 2) (by omega) (by omega)
  have h3 := h (a + 3) (by omega) (by omega)
  simp [readWord, readByte, h0, h1, h2, h3]

/-! ### Entries -/

theorem writeEntry_wf {m : Memory} (h : m.wf) (w : Window) (i : Nat) (v : Word) : (writeEntry m w i v).wf :=
  writeWord_wf h ..

/-- An entry read after it was written holds its defined fields (20_memory.md R84, R91). -/
@[simp] theorem readEntry_writeEntry (d : Nat) (m : Memory) (w : Window) (i : Nat) (v : Word) :
    readEntry d (writeEntry m w i v) w i = v &&& windowMask w := by
  simp [readEntry, writeEntry, BitVec.and_assoc]

theorem getByte_writeEntry_outside (m : Memory) {w : Window} {i a : Nat} (v : Word)
    (h : a < entryAddr w i ∨ entryAddr w (i + 1) ≤ a) : getByte (writeEntry m w i v) a = getByte m a := by
  apply getByte_writeWord_outside
  simp only [entryAddr] at h ⊢
  omega

theorem readEntry_congr {m m' : Memory} {w : Window} {i : Nat}
    (h : ∀ a, entryAddr w i ≤ a → a < entryAddr w (i + 1) → getByte m' a = getByte m a) (d : Nat) :
    readEntry d m' w i = readEntry d m w i := by
  unfold readEntry
  rw [readWord_congr (fun b hb hb' => h b hb (by simp only [entryAddr] at *; omega))]

/-- Writing one entry of a window leaves its other entries alone. -/
theorem readEntry_writeEntry_of_ne (d : Nat) (m : Memory) (w : Window) {i j : Nat} (v : Word) (h : j ≠ i) :
    readEntry d (writeEntry m w i v) w j = readEntry d m w j :=
  readEntry_congr (fun a ha ha' => getByte_writeEntry_outside m v (by simp only [entryAddr] at *; omega)) d

/-! ### Runs of entries -/

theorem writeEntries_wf {m : Memory} (h : m.wf) (w : Window) (i : Nat) (vs : List Word) : (writeEntries m w i vs).wf := by
  induction vs generalizing m i with
  | nil => exact h
  | cons v vs ih => exact ih (writeEntry_wf h ..) _

theorem getByte_writeEntries_outside {w : Window} {a : Nat} (vs : List Word) (m : Memory) (i : Nat)
    (h : a < entryAddr w i ∨ entryAddr w (i + vs.length) ≤ a) : getByte (writeEntries m w i vs) a = getByte m a := by
  induction vs generalizing m i with
  | nil => rfl
  | cons v vs ih =>
    simp only [List.length_cons, entryAddr] at h
    rw [writeEntries, ih _ _ (by simp only [entryAddr]; omega),
      getByte_writeEntry_outside _ _ (by simp only [entryAddr]; omega)]

/-- Entry `i + k` of a written run holds the run's element `k`. -/
theorem readEntry_writeEntries (d : Nat) {w : Window} (vs : List Word) (m : Memory) (i : Nat) {k : Nat} {v : Word}
    (h : vs[k]? = some v) : readEntry d (writeEntries m w i vs) w (i + k) = v &&& windowMask w := by
  induction vs generalizing m i k with
  | nil => simp at h
  | cons u vs ih =>
    cases k with
    | zero =>
      obtain rfl : u = v := by simpa using h
      rw [writeEntries, readEntry_congr (m := writeEntry m w i u)
        (fun a ha ha' => getByte_writeEntries_outside vs _ _ (by simp only [entryAddr] at *; omega)) d]
      exact readEntry_writeEntry ..
    | succ k =>
      rw [writeEntries, show i + (k + 1) = i + 1 + k from by omega]
      exact ih _ _ (by simpa using h)

end Sys2Proof.Machine
end

