-- ==== Sys2Proof/Laws/Canonical.lean ====
section
/-! SUPPORT. Every operation of the machine that writes memory keeps the canonical form. -/

namespace Sys2Proof.Machine

theorem storeSyndromes_wf {m : Memory} (h : m.wf) (synd : List Elem) : (storeSyndromes m synd).wf :=
  writeEntries_wf h ..

/-- A fold of operations that each keep the canonical form keeps it. -/
theorem foldl_wf {α : Type} (f : Memory → α → Memory) (hf : ∀ {m}, m.wf → ∀ a, (f m a).wf) (l : List α) {m : Memory}
    (h : m.wf) : (l.foldl f m).wf := by
  induction l generalizing m with
  | nil => exact h
  | cons a l ih => exact ih (hf h a)

theorem deal_wf (nb : Nat) (target base : Nat → Nat) (seg : List Codeword) {m : Memory} (h : m.wf) :
    (deal nb target base seg m).wf :=
  foldl_wf _ (fun h _ => writeEntry_wf h ..) _ h

theorem dealSegments_wf (g : Geometry) (d : Nat) {m : Memory} (h : m.wf) : (dealSegments g d m).wf :=
  deal_wf _ _ _ _ (deal_wf _ _ _ _ h)

theorem storeCorrected_wf {m : Memory} (h : m.wf) (k : Nat) (pos : List Nat) (out : List Elem) :
    (storeCorrected m k pos out).wf :=
  foldl_wf _ (fun h _ => writeEntry_wf h ..) _ h

theorem correctBlock_wf (d : Nat) {m : Memory} (h : m.wf) (k n t : Nat) (pos : List Nat) :
    (correctBlock d m k n t pos).mem.wf := by
  simp only [correctBlock]
  split
  · exact writeEntry_wf (storeSyndromes_wf h _) ..
  · exact storeCorrected_wf (writeEntry_wf (storeSyndromes_wf h _) ..) ..

theorem correctBlocks_wf (d : Nat) (g : Geometry) {m : Memory} (h : m.wf) : (correctBlocks d g m).mem.wf := by
  suffices ∀ (l : List Nat) (a : AllBlocks), a.mem.wf → (l.foldl (correctNext d g) a).mem.wf from this _ _ h
  intro l
  induction l with
  | nil => exact fun _ h => h
  | cons k l ih => exact fun a h => ih _ (correctBlock_wf d h ..)

theorem storeWalk_wf (bits trace : List Word) {s : State} (h : s.mem.wf) : (storeWalk bits trace s).mem.wf :=
  writeEntries_wf (writeEntries_wf h ..) ..

end Sys2Proof.Machine
end

