-- ==== Sys2Proof/Laws/Geometry.lean ====
section
/-! SUPPORT. The default VEC_TABLE meets R9, and what the geometry function says (10_state.md R49). -/

namespace Sys2Proof.Machine

/-- "The ISO default satisfies all four" (00_scope.md R9). -/
theorem isoVecTable_wf : VecTableWf isoVecTable := by decide +kernel

/-- The default's D and E add up to the version's codewords in every entry (41_deinterleave.md R181, 10_state.md R48). -/
theorem isoVecTable_legal : VecTableLegal .iso := ⟨isoVecTable_wf, by decide +kernel⟩

theorem vecTableOk_iff (t : VecTable) : vecTableOk t = true ↔ VecTableLegal t := by
  cases t with
  | iso => exact ⟨fun _ => isoVecTable_legal, fun _ => rfl⟩
  | custom es ts => exact decide_eq_true_iff

theorem versionOk_iff (v : BitVec 6) : versionOk v = true ↔ 1 ≤ v.toNat ∧ v.toNat ≤ 40 := by
  simp [versionOk]

theorem geometry_eq_none {s : State} : geometry s = none ↔ versionOk s.regs.version = false := by
  unfold geometry
  split <;> simp_all

/-- The geometry is defined exactly for a valid version, and then holds R49's quantities. -/
theorem geometry_eq_some {s : State} {g : Geometry} (h : geometry s = some g) :
    versionOk s.regs.version = true ∧ g.size = symbolSize s.regs.version ∧
      g.ec = (vecEntry s.rom.vecTable s.regs.version s.regs.ecLevel).ec ∧
      g.group0 = (vecEntry s.rom.vecTable s.regs.version s.regs.ecLevel).groups.getD 0 ⟨0, 0⟩ ∧
      g.group1 = (vecEntry s.rom.vecTable s.regs.version s.regs.ecLevel).groups.getD 1 ⟨0, 0⟩ := by
  unfold geometry at h
  split at h
  · rename_i hv
    obtain rfl := Option.some.inj h
    exact ⟨hv, rfl, rfl, rfl, rfl⟩
  · cases h

/-- A valid version's entry is one of a well-formed table's. -/
theorem vecEntry_mem {t : VecTable} (ht : VecTableWf (vecEntries t)) {v : BitVec 6} (hv : versionOk v = true) (l : BitVec 2) :
    vecEntry t v l ∈ vecEntries t := by
  have hv := (versionOk_iff v).1 hv
  have hl := l.isLt
  have hi : 4 * (v.toNat - 1) + l.toNat < (vecEntries t).length := by rw [ht.1]; omega
  rw [vecEntry, List.getD_eq_getElem _ _ hi]
  exact List.getElem_mem hi

end Sys2Proof.Machine
end

