-- ==== Sys2Proof/Laws/State.lean ====
section
/-! SUPPORT. What each update of State does to each field: one lemma per field per update, so that no proof unfolds a record
update. -/

namespace Sys2Proof.Machine

variable (s : State)

@[simp] theorem State.setStatus_status (st : Status) : (s.setStatus st).status = st := rfl
@[simp] theorem State.setStatus_regs (st : Status) : (s.setStatus st).regs = s.regs := rfl
@[simp] theorem State.setStatus_pending (st : Status) : (s.setStatus st).pending = s.pending := rfl
@[simp] theorem State.setStatus_mem (st : Status) : (s.setStatus st).mem = s.mem := rfl
@[simp] theorem State.setStatus_rom (st : Status) : (s.setStatus st).rom = s.rom := rfl
@[simp] theorem State.setStatus_inputs (st : Status) : (s.setStatus st).inputs = s.inputs := rfl
@[simp] theorem State.setStatus_reads (st : Status) : (s.setStatus st).reads = s.reads := rfl
@[simp] theorem State.setStatus_draws (st : Status) : (s.setStatus st).draws = s.draws := rfl

@[simp] theorem State.setRegs_status (r : Regs) : (s.setRegs r).status = s.status := rfl
@[simp] theorem State.setRegs_regs (r : Regs) : (s.setRegs r).regs = r := rfl
@[simp] theorem State.setRegs_pending (r : Regs) : (s.setRegs r).pending = s.pending := rfl
@[simp] theorem State.setRegs_mem (r : Regs) : (s.setRegs r).mem = s.mem := rfl
@[simp] theorem State.setRegs_rom (r : Regs) : (s.setRegs r).rom = s.rom := rfl
@[simp] theorem State.setRegs_inputs (r : Regs) : (s.setRegs r).inputs = s.inputs := rfl
@[simp] theorem State.setRegs_reads (r : Regs) : (s.setRegs r).reads = s.reads := rfl
@[simp] theorem State.setRegs_draws (r : Regs) : (s.setRegs r).draws = s.draws := rfl

@[simp] theorem State.setPending_status (w : Word) : (s.setPending w).status = s.status := rfl
@[simp] theorem State.setPending_regs (w : Word) : (s.setPending w).regs = s.regs := rfl
@[simp] theorem State.setPending_pending (w : Word) : (s.setPending w).pending = w := rfl
@[simp] theorem State.setPending_mem (w : Word) : (s.setPending w).mem = s.mem := rfl
@[simp] theorem State.setPending_rom (w : Word) : (s.setPending w).rom = s.rom := rfl
@[simp] theorem State.setPending_inputs (w : Word) : (s.setPending w).inputs = s.inputs := rfl
@[simp] theorem State.setPending_reads (w : Word) : (s.setPending w).reads = s.reads := rfl
@[simp] theorem State.setPending_draws (w : Word) : (s.setPending w).draws = s.draws := rfl

@[simp] theorem State.setMem_status (m : Memory) : (s.setMem m).status = s.status := rfl
@[simp] theorem State.setMem_regs (m : Memory) : (s.setMem m).regs = s.regs := rfl
@[simp] theorem State.setMem_pending (m : Memory) : (s.setMem m).pending = s.pending := rfl
@[simp] theorem State.setMem_mem (m : Memory) : (s.setMem m).mem = m := rfl
@[simp] theorem State.setMem_rom (m : Memory) : (s.setMem m).rom = s.rom := rfl
@[simp] theorem State.setMem_inputs (m : Memory) : (s.setMem m).inputs = s.inputs := rfl
@[simp] theorem State.setMem_reads (m : Memory) : (s.setMem m).reads = s.reads := rfl
@[simp] theorem State.setMem_draws (m : Memory) : (s.setMem m).draws = s.draws := rfl

@[simp] theorem State.setInputs_status (l : List Move) : (s.setInputs l).status = s.status := rfl
@[simp] theorem State.setInputs_regs (l : List Move) : (s.setInputs l).regs = s.regs := rfl
@[simp] theorem State.setInputs_pending (l : List Move) : (s.setInputs l).pending = s.pending := rfl
@[simp] theorem State.setInputs_mem (l : List Move) : (s.setInputs l).mem = s.mem := rfl
@[simp] theorem State.setInputs_rom (l : List Move) : (s.setInputs l).rom = s.rom := rfl
@[simp] theorem State.setInputs_inputs (l : List Move) : (s.setInputs l).inputs = l := rfl
@[simp] theorem State.setInputs_reads (l : List Move) : (s.setInputs l).reads = s.reads := rfl
@[simp] theorem State.setInputs_draws (l : List Move) : (s.setInputs l).draws = s.draws := rfl

@[simp] theorem State.setDraws_status (d : Nat) : (s.setDraws d).status = s.status := rfl
@[simp] theorem State.setDraws_regs (d : Nat) : (s.setDraws d).regs = s.regs := rfl
@[simp] theorem State.setDraws_pending (d : Nat) : (s.setDraws d).pending = s.pending := rfl
@[simp] theorem State.setDraws_mem (d : Nat) : (s.setDraws d).mem = s.mem := rfl
@[simp] theorem State.setDraws_rom (d : Nat) : (s.setDraws d).rom = s.rom := rfl
@[simp] theorem State.setDraws_inputs (d : Nat) : (s.setDraws d).inputs = s.inputs := rfl
@[simp] theorem State.setDraws_reads (d : Nat) : (s.setDraws d).reads = s.reads := rfl
@[simp] theorem State.setDraws_draws (d : Nat) : (s.setDraws d).draws = d := rfl

@[simp] theorem State.pushRead_status (v : Word) : (s.pushRead v).status = s.status := rfl
@[simp] theorem State.pushRead_regs (v : Word) : (s.pushRead v).regs = s.regs := rfl
@[simp] theorem State.pushRead_pending (v : Word) : (s.pushRead v).pending = s.pending := rfl
@[simp] theorem State.pushRead_mem (v : Word) : (s.pushRead v).mem = s.mem := rfl
@[simp] theorem State.pushRead_rom (v : Word) : (s.pushRead v).rom = s.rom := rfl
@[simp] theorem State.pushRead_inputs (v : Word) : (s.pushRead v).inputs = s.inputs := rfl
@[simp] theorem State.pushRead_reads (v : Word) : (s.pushRead v).reads = v :: s.reads := rfl
@[simp] theorem State.pushRead_draws (v : Word) : (s.pushRead v).draws = s.draws := rfl

@[simp] theorem State.setGfR_status (v : Elem) : (s.setGfR v).status = s.status := rfl
@[simp] theorem State.setGfR_regs (v : Elem) : (s.setGfR v).regs = { s.regs with gfR := v } := rfl
@[simp] theorem State.setGfR_pending (v : Elem) : (s.setGfR v).pending = s.pending := rfl
@[simp] theorem State.setGfR_mem (v : Elem) : (s.setGfR v).mem = s.mem := rfl
@[simp] theorem State.setGfR_rom (v : Elem) : (s.setGfR v).rom = s.rom := rfl
@[simp] theorem State.setGfR_inputs (v : Elem) : (s.setGfR v).inputs = s.inputs := rfl
@[simp] theorem State.setGfR_reads (v : Elem) : (s.setGfR v).reads = s.reads := rfl
@[simp] theorem State.setGfR_draws (v : Elem) : (s.setGfR v).draws = s.draws := rfl

@[simp] theorem State.setSyndNz_status (b : Bool) : (s.setSyndNz b).status = { s.status with syndNz := b } := rfl
@[simp] theorem State.setSyndNz_regs (b : Bool) : (s.setSyndNz b).regs = s.regs := rfl
@[simp] theorem State.setSyndNz_pending (b : Bool) : (s.setSyndNz b).pending = s.pending := rfl
@[simp] theorem State.setSyndNz_mem (b : Bool) : (s.setSyndNz b).mem = s.mem := rfl
@[simp] theorem State.setSyndNz_rom (b : Bool) : (s.setSyndNz b).rom = s.rom := rfl
@[simp] theorem State.setSyndNz_inputs (b : Bool) : (s.setSyndNz b).inputs = s.inputs := rfl
@[simp] theorem State.setSyndNz_reads (b : Bool) : (s.setSyndNz b).reads = s.reads := rfl
@[simp] theorem State.setSyndNz_draws (b : Bool) : (s.setSyndNz b).draws = s.draws := rfl

@[simp] theorem State.setBusErr_status : (s.setBusErr).status = { s.status with busErr := true } := rfl
@[simp] theorem State.setBusErr_regs : (s.setBusErr).regs = s.regs := rfl
@[simp] theorem State.setBusErr_pending : (s.setBusErr).pending = s.pending := rfl
@[simp] theorem State.setBusErr_mem : (s.setBusErr).mem = s.mem := rfl
@[simp] theorem State.setBusErr_rom : (s.setBusErr).rom = s.rom := rfl
@[simp] theorem State.setBusErr_inputs : (s.setBusErr).inputs = s.inputs := rfl
@[simp] theorem State.setBusErr_reads : (s.setBusErr).reads = s.reads := rfl
@[simp] theorem State.setBusErr_draws : (s.setBusErr).draws = s.draws := rfl

/-! ### Acceptance (10_state.md R34) -/

@[simp] theorem acceptCommand_status (v : Word) : (acceptCommand v s).status = statusAccept s.status := rfl
@[simp] theorem acceptCommand_regs (v : Word) : (acceptCommand v s).regs = { s.regs with cmdLast := v } := rfl
@[simp] theorem acceptCommand_pending (v : Word) : (acceptCommand v s).pending = v := rfl
@[simp] theorem acceptCommand_mem (v : Word) : (acceptCommand v s).mem = s.mem := rfl
@[simp] theorem acceptCommand_rom (v : Word) : (acceptCommand v s).rom = s.rom := rfl
@[simp] theorem acceptCommand_inputs (v : Word) : (acceptCommand v s).inputs = s.inputs := rfl
@[simp] theorem acceptCommand_reads (v : Word) : (acceptCommand v s).reads = s.reads := rfl
@[simp] theorem acceptCommand_draws (v : Word) : (acceptCommand v s).draws = s.draws := rfl

/-! ### Completion (60_exceptions.md R292) -/

@[simp] theorem completion_status (code : ErrCode) : (completion code s).status = statusComplete code s.status := rfl
@[simp] theorem completion_regs (code : ErrCode) : (completion code s).regs = s.regs := rfl
@[simp] theorem completion_pending (code : ErrCode) : (completion code s).pending = Config.freePending s.draws := rfl
@[simp] theorem completion_mem (code : ErrCode) : (completion code s).mem = s.mem := rfl
@[simp] theorem completion_rom (code : ErrCode) : (completion code s).rom = s.rom := rfl
@[simp] theorem completion_inputs (code : ErrCode) : (completion code s).inputs = s.inputs := rfl
@[simp] theorem completion_reads (code : ErrCode) : (completion code s).reads = s.reads := rfl
@[simp] theorem completion_draws (code : ErrCode) : (completion code s).draws = s.draws + 2 := rfl

/-! ### Status updates (10_state.md R33) -/

variable (st : Status)

@[simp] theorem statusAccept_busy : (statusAccept st).busy = true := rfl
@[simp] theorem statusAccept_done : (statusAccept st).done = false := rfl
@[simp] theorem statusAccept_err : (statusAccept st).err = st.err := rfl
@[simp] theorem statusAccept_syndNz : (statusAccept st).syndNz = st.syndNz := rfl
@[simp] theorem statusAccept_busErr : (statusAccept st).busErr = st.busErr := rfl
@[simp] theorem statusAccept_errCode : (statusAccept st).errCode = st.errCode := rfl
@[simp] theorem statusComplete_busy (code : ErrCode) : (statusComplete code st).busy = false := rfl
@[simp] theorem statusComplete_done (code : ErrCode) : (statusComplete code st).done = true := rfl
@[simp] theorem statusComplete_err (code : ErrCode) : (statusComplete code st).err = (st.err || code != .none) := rfl
@[simp] theorem statusComplete_syndNz (code : ErrCode) : (statusComplete code st).syndNz = st.syndNz := rfl
@[simp] theorem statusComplete_busErr (code : ErrCode) : (statusComplete code st).busErr = st.busErr := rfl
@[simp] theorem statusComplete_errCode (code : ErrCode) : (statusComplete code st).errCode = code := rfl
@[simp] theorem statusAcknowledge_busy (v : Word) : (statusAcknowledge v st).busy = st.busy := rfl
@[simp] theorem statusAcknowledge_done (v : Word) : (statusAcknowledge v st).done = (st.done && !v.getLsbD 1) := rfl
@[simp] theorem statusAcknowledge_err (v : Word) : (statusAcknowledge v st).err = (st.err && !v.getLsbD 2) := rfl
@[simp] theorem statusAcknowledge_syndNz (v : Word) : (statusAcknowledge v st).syndNz = st.syndNz := rfl
@[simp] theorem statusAcknowledge_busErr (v : Word) : (statusAcknowledge v st).busErr = (st.busErr && !v.getLsbD 4) := rfl
@[simp] theorem statusAcknowledge_errCode (v : Word) : (statusAcknowledge v st).errCode = st.errCode := rfl

end Sys2Proof.Machine
end

