-- ==== Sys2Proof/Laws/Outcome.lean ====
section
/-! SUPPORT. One lemma per shared operation that ends a command: everything it can answer. -/

namespace Sys2Proof.Machine

theorem complete_eq (s : State) : complete s = .next (completion .none s) := rfl

theorem raiseError_eq (code : ErrCode) (s : State) : raiseError code s = .next (completion code s) := rfl

theorem completeUncorrectable_eq (s : State) : completeUncorrectable s = .next (completion .uncorrectable s) := rfl

/-- A geometry command raises E_BAD_VERSION, or runs with the geometry of its registers. -/
theorem withGeometry_cases (s : State) (run : Geometry → Result) :
    (versionOk s.regs.version = false ∧ withGeometry s run = .next (completion .badVersion s)) ∨
      ∃ g, geometry s = some g ∧ withGeometry s run = run g := by
  unfold withGeometry
  cases h : geometry s with
  | none   => exact .inl ⟨geometry_eq_none.1 h, rfl⟩
  | some g => exact .inr ⟨g, rfl, rfl⟩

theorem withGeometry_some {s : State} {g : Geometry} (h : geometry s = some g) (run : Geometry → Result) :
    withGeometry s run = run g := by
  simp [withGeometry, h]

/-- A block command raises E_BAD_VERSION, then E_BAD_BLOCK, or runs on a block of the geometry. -/
theorem withBlock_cases (k : BitVec 8) (s : State) (run : Geometry → Result) :
    (versionOk s.regs.version = false ∧ withBlock k s run = .next (completion .badVersion s)) ∨
      ∃ g, geometry s = some g ∧
        ((g.blocks ≤ k.toNat ∧ withBlock k s run = .next (completion .badBlock s)) ∨
          (k.toNat < g.blocks ∧ withBlock k s run = run g)) := by
  unfold withBlock
  rcases withGeometry_cases s (fun g => if k.toNat < g.blocks then run g else raiseError .badBlock s) with h | ⟨g, hg, h⟩
  · exact .inl h
  · refine .inr ⟨g, hg, ?_⟩
    rw [h]
    by_cases hk : k.toNat < g.blocks
    · exact .inr ⟨hk, if_pos hk⟩
    · exact .inl ⟨Nat.le_of_not_lt hk, if_neg hk⟩

/-- A property of a geometry command's answer, from its two cases. -/
theorem withGeometry_elim {P : Result → Prop} {s : State} {run : Geometry → Result}
    (bad : ¬ versionOk s.regs.version = true → P (.next (completion .badVersion s)))
    (good : ∀ g, geometry s = some g → P (run g)) : P (withGeometry s run) := by
  rcases withGeometry_cases s run with ⟨hv, h⟩ | ⟨g, hg, h⟩
  · exact h ▸ bad (by simp [hv])
  · exact h ▸ good g hg

/-- A property of a block command's answer, from its three cases. -/
theorem withBlock_elim {P : Result → Prop} {k : BitVec 8} {s : State} {run : Geometry → Result}
    (bad : ¬ versionOk s.regs.version = true → P (.next (completion .badVersion s)))
    (beyond : ∀ g, geometry s = some g → g.blocks ≤ k.toNat → P (.next (completion .badBlock s)))
    (good : ∀ g, geometry s = some g → k.toNat < g.blocks → P (run g)) : P (withBlock k s run) := by
  rcases withBlock_cases k s run with ⟨hv, h⟩ | ⟨g, hg, ⟨hk, h⟩ | ⟨hk, h⟩⟩
  · exact h ▸ bad (by simp [hv])
  · exact h ▸ beyond g hg hk
  · exact h ▸ good g hg hk

/-- A field command writes its result to GF_R, or raises its error where the operation is undefined. -/
theorem fieldResult_cases (code : ErrCode) (r : Option Elem) (s : State) :
    (r = none ∧ fieldResult code r s = .next (completion code s)) ∨
      ∃ v, r = some v ∧ fieldResult code r s = .next (completion .none (s.setGfR v)) := by
  cases r with
  | none   => exact .inl ⟨rfl, rfl⟩
  | some v => exact .inr ⟨v, rfl, rfl⟩

/-- What a correction of one block leaves, in the two cases of the corrected message. -/
theorem correctBlock_cases (d : Nat) (m : Memory) (k n t : Nat) (pos : List Nat) :
    (correctedMessage (blockMessage d m k n) (syndromes (blockMessage d m k n) t) pos = none ∧
        (correctBlock d m k n t pos).failed = true ∧
        (correctBlock d m k n t pos).mem =
          writeEntry (storeSyndromes m (syndromes (blockMessage d m k n) t)) .bstat k
            (bstatWord .uncorrectable (anyNonzero (syndromes (blockMessage d m k n) t)) pos.length)) ∨
      ∃ out, correctedMessage (blockMessage d m k n) (syndromes (blockMessage d m k n) t) pos = some out ∧
        (correctBlock d m k n t pos).failed = false ∧
        (correctBlock d m k n t pos).mem =
          storeCorrected (writeEntry (storeSyndromes m (syndromes (blockMessage d m k n) t)) .bstat k
            (bstatWord .none (anyNonzero (syndromes (blockMessage d m k n) t)) pos.length)) k pos out := by
  unfold correctBlock
  cases h : correctedMessage (blockMessage d m k n) (syndromes (blockMessage d m k n) t) pos with
  | none     => exact .inl ⟨rfl, by simp [h], by simp [h]⟩
  | some out => exact .inr ⟨out, rfl, by simp [h], by simp [h]⟩

@[simp] theorem correctBlock_snz (d : Nat) (m : Memory) (k n t : Nat) (pos : List Nat) :
    (correctBlock d m k n t pos).snz = anyNonzero (syndromes (blockMessage d m k n) t) := by
  simp only [correctBlock]
  split <;> rfl

/-- A host transaction never touches the tables, the waiting moves or, but for CMD, the command latch. -/
theorem portStep_rom (t : Transaction) (s : State) : (portStep t s).rom = s.rom := by
  cases t with
  | read addr be =>
    simp only [portStep, portRead]
    split <;> rfl
  | write addr be v =>
    simp only [portStep, portWrite]
    split
    · rfl
    · split
      · rename_i r _
        cases r <;> rfl
      · split <;> rfl
      · rfl

theorem portStep_inputs (t : Transaction) (s : State) : (portStep t s).inputs = s.inputs := by
  cases t with
  | read addr be =>
    simp only [portStep, portRead]
    split <;> rfl
  | write addr be v =>
    simp only [portStep, portWrite]
    split
    · rfl
    · split
      · rename_i r _
        cases r <;> rfl
      · split <;> rfl
      · rfl

/-- The next move keeps everything but the list of moves. -/
theorem nextTurn_state (s : State) : ∃ l, (nextTurn s).2 = s.setInputs l := by
  unfold nextTurn
  split
  · exact ⟨s.inputs, rfl⟩
  · exact ⟨_, rfl⟩
  · exact ⟨_, rfl⟩

end Sys2Proof.Machine
end

