-- ==== Sys2Proof/Laws/PerInstr.lean ====
section
/-! SUPPORT. Statements about every command as syntax, one lemma per constructor. Family Fields: the fields of a command's
word (30_encoding.md R110): ARG is its block operand and 0 without one, AUTO its erasure source and 0 without one, RSV is
0. -/

namespace Sys2Proof.Laws.Fields

/-- ARG of a command (R111). -/
def argOf : Instr → BitVec 8
  | .syndrome k  => k
  | .correct k _ => k
  | .polyEval k  => k
  | _            => 0

/-- AUTO of a command (R110). -/
def autoOf : Instr → Bool
  | .correct _ auto => auto
  | _               => false

def Statement (i : Instr) : Prop :=
  argField (encode i) = argOf i ∧ autoField (encode i) = autoOf i ∧ (encode i).extractLsb' 17 15 = 0

theorem nop : Statement .nop := by unfold Statement; decide
theorem traverse : Statement .traverse := by unfold Statement; decide
theorem deinterleave : Statement .deinterleave := by unfold Statement; decide
theorem syndrome (k : BitVec 8) : Statement (.syndrome k) := by revert k; unfold Statement; decide +kernel
theorem correct (k : BitVec 8) (auto : Bool) : Statement (.correct k auto) := by
  revert k auto; unfold Statement; decide +kernel
theorem correctAll : Statement .correctAll := by unfold Statement; decide
theorem polyEval (k : BitVec 8) : Statement (.polyEval k) := by revert k; unfold Statement; decide +kernel
theorem gfAdd : Statement .gfAdd := by unfold Statement; decide
theorem gfMul : Statement .gfMul := by unfold Statement; decide
theorem gfDiv : Statement .gfDiv := by unfold Statement; decide
theorem gfInv : Statement .gfInv := by unfold Statement; decide
theorem gfPow : Statement .gfPow := by unfold Statement; decide
theorem gfExp : Statement .gfExp := by unfold Statement; decide
theorem gfLog : Statement .gfLog := by unfold Statement; decide
theorem reset : Statement .reset := by unfold Statement; decide

end Sys2Proof.Laws.Fields
end

