-- ==== Sys2Proof/Tests/Slice0.lean ====
section
/-! SUPPORT. Tests of the model on words and values that the spec gives (30_encoding.md, 95_test_vectors.md), the smoke test
of WellFormed, and for every statement of Certificates/Slice0/Obligations.lean with hypotheses a state and operands that
meet all of them together (theorems witness_…). -/

namespace Sys2Proof.Tests

open Sys2Proof.Machine

-- One theorem after the other: checked side by side, the kernel evaluations below take more memory than the build allows.
set_option Elab.async false

/-! ### WellFormed: one ill-formed term for each condition of 00_scope.md R9 -/

theorem test_wf_accepts_v1L : VecEntry.wf ⟨7, [⟨1, 19⟩]⟩ := by decide
theorem test_wf_refuses_three_groups : ¬ VecEntry.wf ⟨2, [⟨1, 3⟩, ⟨1, 4⟩, ⟨1, 5⟩]⟩ := by decide
theorem test_wf_refuses_no_block : ¬ VecEntry.wf ⟨2, [⟨0, 3⟩]⟩ := by decide
theorem test_wf_refuses_129_blocks : ¬ VecEntry.wf ⟨1, [⟨128, 1⟩, ⟨1, 1⟩]⟩ := by decide
theorem test_wf_refuses_no_data : ¬ VecEntry.wf ⟨2, [⟨1, 0⟩]⟩ := by decide
theorem test_wf_refuses_256_codewords : ¬ VecEntry.wf ⟨7, [⟨1, 249⟩]⟩ := by decide
theorem test_wf_refuses_long_stream : ¬ VecEntry.wf ⟨32, [⟨128, 1⟩]⟩ := by decide
theorem test_wf_refuses_wrong_total : ¬ TotalsAgree [⟨7, [⟨1, 19⟩]⟩] [20] := by decide
theorem test_wf_refuses_short_table : ¬ VecTableWf [⟨7, [⟨1, 19⟩]⟩] := by decide

/-! ### Decoding: words written out from 30_encoding.md R112, R113 and R118 -/

theorem test_decode_nop : decode 0b00000000000000000000000000000000 = .ok .nop := by decide
theorem test_decode_traverse : decode 0b00000000000000000000000000000001 = .ok .traverse := by decide
theorem test_decode_deinterleave : decode 0b00000000000000000000000000000010 = .ok .deinterleave := by decide
theorem test_decode_syndrome : decode 0b00000000000000000101000000000011 = .ok (.syndrome 0x50) := by decide
theorem test_decode_correct : decode 0b00000000000000000000001100000100 = .ok (.correct 3 false) := by decide
theorem test_decode_correct_auto : decode 0b00000000000000010000001100000100 = .ok (.correct 3 true) := by decide
theorem test_decode_correctAll : decode 0b00000000000000000000000000000101 = .ok .correctAll := by decide
theorem test_decode_polyEval : decode 0b00000000000000001111111100000110 = .ok (.polyEval 0xFF) := by decide
theorem test_decode_gfAdd : decode 0b00000000000000000000000000010000 = .ok .gfAdd := by decide
theorem test_decode_gfMul : decode 0b00000000000000000000000000010001 = .ok .gfMul := by decide
theorem test_decode_gfDiv : decode 0b00000000000000000000000000010010 = .ok .gfDiv := by decide
theorem test_decode_gfInv : decode 0b00000000000000000000000000010011 = .ok .gfInv := by decide
theorem test_decode_gfPow : decode 0b00000000000000000000000000010100 = .ok .gfPow := by decide
theorem test_decode_gfExp : decode 0b00000000000000000000000000010101 = .ok .gfExp := by decide
theorem test_decode_gfLog : decode 0b00000000000000000000000000010110 = .ok .gfLog := by decide
theorem test_decode_reset : decode 0b00000000000000000000000011111111 = .ok .reset := by decide

/-- 95_test_vectors.md §5.4 and R118: a reserved bit, AUTO on SYNDROME, ARG on NOP; then the edges of the reserved opcodes. -/
theorem test_decode_illegal_fields :
    decode 0x00020304 = .error (.fixedBitsDiffer 0x04) ∧ decode 0x00020004 = .error (.fixedBitsDiffer 0x04) ∧
    decode 0x00010003 = .error (.fixedBitsDiffer 0x03) ∧ decode 0x00000100 = .error (.fixedBitsDiffer 0x00) ∧
    decode 0x800000FF = .error (.fixedBitsDiffer 0xFF) := by decide
theorem test_decode_illegal_opcodes :
    decode 0x00000007 = .error (.reservedOpcode 0x07) ∧ decode 0x0000000F = .error (.reservedOpcode 0x0F) ∧
    decode 0x00000017 = .error (.reservedOpcode 0x17) ∧ decode 0x000000FE = .error (.reservedOpcode 0xFE) := by decide

/-! ### Field arithmetic: 95_test_vectors.md §2 -/

/-- Entries 0, 8, 16, 25, 36, 111, 254 of the EXP table of §2.1. -/
theorem test_exp_table : [0, 8, 16, 25, 36, 111, 254].map expByte = [0x01, 0x1D, 0x4C, 0x03, 0x25, 0xCE, 0x8E] :=
  by decide +kernel

/-- Entries 1, 3, 7, 0x53, 0xCA, 0xFF of the LOG table of §2.1. -/
theorem test_log_table : ([0x01, 0x03, 0x07, 0x53, 0xCA, 0xFF] : List Elem).map gfLog =
    [some 0, some 25, some 198, some 206, some 73, some 175] := by decide +kernel

/-- The polynomial vectors of §2.2. -/
theorem test_polynomials : polyAdd [1, 2, 3] [4, 5] = [1, 6, 6] ∧ polyMul [1, 2] [1, 3] = [1, 1, 6] ∧
    polyEval [1, 2, 3] 2 = 3 ∧ polyDiv [1, 2, 3, 4, 5] [1, 0, 0] = some ([1, 2, 3], [4, 5]) := by decide +kernel

/-- Reset with GF_A and GF_B written. -/
def field (a : Elem) (b : BitVec 16) : State := { State.reset with regs := { Regs.reset with gfA := a, gfB := b } }

/-- GF_R, the error code and STATUS that the command word `w` leaves. -/
def gfAfter (a : Elem) (b : BitVec 16) (w : Nat) : Option (Elem × Word) :=
  match step ((field a b).withFetchWord 32 w) with
  | .next t => some (t.regs.gfR, statusWord t.status)
  | _       => none

theorem test_gfAdd : gfAfter 0x53 0x12CA 0x10 = some (0x99, 0x00000002) := by decide +kernel
theorem test_gfMul : gfAfter 0x1D 0x00E1 0x11 = some (0xAF, 0x00000002) := by decide +kernel
theorem test_gfMul_zero : gfAfter 0x00 0x0053 0x11 = some (0x00, 0x00000002) := by decide +kernel
theorem test_gfDiv : gfAfter 0xCA 0x1253 0x12 = some (0xEC, 0x00000002) := by decide +kernel
/-- A divisor of 0 in bits [7:0], whatever bits [15:8] hold: ERRCODE 8, ERR, DONE; GF_R unchanged (§6.1). -/
theorem test_gfDiv_by_zero : gfAfter 0x8F 0x0100 0x12 = some (0x00, 0x00000806) := by decide +kernel
theorem test_gfInv : gfAfter 0x53 0x0000 0x13 = some (0x8C, 0x00000002) := by decide +kernel
theorem test_gfInv_zero : gfAfter 0x00 0x0001 0x13 = some (0x00, 0x00000806) := by decide +kernel
theorem test_gfPow_negative : gfAfter 0x53 0xFFFE 0x14 = some (0x43, 0x00000002) := by decide +kernel
theorem test_gfPow_zero_base : gfAfter 0x00 0x0000 0x14 = some (0x00, 0x00000906) := by decide +kernel
theorem test_gfExp : gfAfter 0xFF 0x0000 0x15 = some (0x01, 0x00000002) := by decide +kernel
theorem test_gfExp_unsigned : gfAfter 0xC8 0x0000 0x15 = some (0x1C, 0x00000002) := by decide +kernel
theorem test_gfLog : gfAfter 0x53 0x0000 0x16 = some (0xCE, 0x00000002) := by decide +kernel
theorem test_gfLog_zero : gfAfter 0x00 0x0000 0x16 = some (0x00, 0x00000906) := by decide +kernel

/-! ### NOP, RESET and an illegal word -/

/-- VERSION, CTRL.IE, CMD_LAST and STATUS that the word `w` leaves, from VERSION = 1, CTRL = 1, STATUS.ERR = 1. -/
def controlAfter (w : Nat) : Option (BitVec 6 × Bool × Word × Word) :=
  match step ({ State.reset with regs := { Regs.reset with version := 1, ie := true },
                                 status := { Status.reset with err := true } }.withFetchWord 32 w) with
  | .next t => some (t.regs.version, t.regs.ie, t.regs.cmdLast, statusWord t.status)
  | _       => none

/-- R280: ERR stays, since it is sticky. -/
theorem test_nop : controlAfter 0x00 = some (1, true, 0x00, 0x00000006) := by decide
/-- R281's example; CMD reads 0 afterwards. -/
theorem test_reset : controlAfter 0xFF = some (0, false, 0x00, 0x00000002) := by decide
/-- 95_test_vectors.md §6.6: E_BAD_CMD, ERR, DONE. -/
theorem test_illegal_word : controlAfter 0x07 = some (1, true, 0x07, 0x00000106) := by decide

/-! ### Geometry: 95_test_vectors.md §1 and §6.6 -/

/-- Reset with VERSION and EC_LEVEL written. -/
def sized (v : BitVec 6) (l : BitVec 2) : State := { State.reset with regs := { Regs.reset with version := v, ecLevel := l } }

theorem test_geometry_v1L : [geomWord, totalsWord, group0Word, group1Word].map (fun f => f (sized 1 1)) =
    [0x00070115, 0x00070013, 0x00001301, 0x00000000] := by decide +kernel
/-- §6.6 (v5-M) and 10_state.md R48 (v40-H has 1276 data codewords): EC_LEVEL 0 is M and 2 is H. -/
theorem test_geometry_levels : geomWord (sized 5 0) = 0x00180225 ∧ (totalsWord (sized 40 2)).toNat % 65536 = 1276 := by
  decide +kernel
theorem test_geometry_v5Q : [totalsWord, group0Word, group1Word].map (fun f => f (sized 5 3)) =
    [0x0048003E, 0x00000F02, 0x00001002] := by decide +kernel

/-! ### Traversal: 95_test_vectors.md §3 -/

/-- §3.1: entries 0–3, 40–43 and the last of N = 21. -/
theorem test_visit_order : ([0, 1, 2, 3, 40, 41, 42, 43, 419].map fun i => (visitOrder 21)[i]?) =
    [some (20, 20), some (19, 20), some (20, 19), some (19, 19), some (20, 0), some (19, 0), some (18, 0), some (17, 0),
     some (0, 20)] := by decide +kernel

/-- The bits of an all-zero version-1 grid under each mask (§3.2). -/
def maskedZeros (m : BitVec 3) : List Nat :=
  (bitsOf (maskBit .iso m) (fun _ _ => { val := 0, skip := false }) (visitOrder 21)).map BitVec.toNat

theorem test_masks_first_bits : ([0, 3, 4, 5] : List (BitVec 3)).map (fun m => (maskedZeros m).take 16) =
    [[1,0,0,1,1,0,0,1,1,0,0,1,1,0,0,1], [0,1,1,0,0,0,0,1,1,0,0,0,0,1,1,0], [1,1,0,0,0,0,1,1,1,1,0,0,0,0,1,1],
     [0,0,0,0,1,1,0,0,0,0,1,0,0,0,0,0]] := by decide +kernel
theorem test_masks_count : ([0, 1, 2, 3, 4, 5, 6, 7] : List (BitVec 3)).map (fun m => (maskedZeros m).sum) =
    [210, 220, 126, 140, 211, 173, 272, 208] := by decide +kernel

/-- §3.4: an unknown module gives an unknown bit, and the entry of a skipped (0, 20) is 0x0001_1400. -/
theorem test_unknown_and_trace : unmask true 2 = 2 ∧ unmask true 0 = 1 ∧ traceWord 0 20 true = 0x00011400 := by decide

/-- §3.4: VERSION = 0 and VERSION = 41. -/
theorem test_traverse_bad_version : ([sized 0 1, sized 41 1].map fun s =>
    match step (s.withFetchWord 32 0x01) with | .next t => statusWord t.status | _ => 0) = [0x00000206, 0x00000206] := by decide

/-! ### Deinterleaving: 95_test_vectors.md §4 -/

/-- §4.2, v5-Q: data codewords 0 to 4, 56, 60 and 61, and EC codewords 62, 66 and 133. -/
theorem test_deal_v5Q :
    ([0, 1, 2, 3, 4, 56, 60, 61].map fun i => (dealOrder 4 (fun k => if k < 2 then 15 else 16) 62)[i]?) =
      [some (0, 0), some (1, 0), some (2, 0), some (3, 0), some (0, 1), some (0, 14), some (2, 15), some (3, 15)] ∧
    ([0, 4, 71].map fun i => (dealOrder 4 (fun _ => 18) 72)[i]?) = [some (0, 0), some (0, 1), some (3, 17)] := by
  decide +kernel

/-- §4.3: BITS[8..15] = 1,1,U,1,1,1,1,1 give {U 1, VAL 0xDF}. -/
theorem test_codeword :
    streamCodeword 0 (writeEntries [] .bits 8 [1, 1, 2, 1, 1, 1, 1, 1]) 1 = { u := true, val := 0xDF } := by decide +kernel

/-- §4.3: BIT_COUNT = 207 for v1-L is E_SHORT_STREAM. -/
theorem test_deinterleave_short :
    (match step ({ sized 1 1 with regs := { (sized 1 1).regs with bitCount := 207 } }.withFetchWord 32 0x02) with
     | .next t => statusWord t.status
     | _       => 0) = 0x00000406 := by decide +kernel

/-! ### Reed-Solomon: 95_test_vectors.md §5 -/

/-- The valid block of §5.1. -/
def validBlock : List Word :=
  [0x40, 0x14, 0x10, 0xEC, 0x11, 0xEC, 0x11, 0xEC, 0x11, 0xEC, 0x11, 0xEC, 0x11] ++
  [0xEC, 0x11, 0xEC, 0x11, 0xEC, 0x11, 0x52, 0x4B, 0xB5, 0x3B, 0xAF, 0x8D, 0xF1]

/-- The received block of §5.2, with the unknown flags `f` at positions 0 and 5 (0x100 or 0). -/
def received (f : Word) : List Word := (validBlock.set 0 f).set 5 (0x13 ||| f)

/-- Version 1, level L, with block 0 and the erasure list written. -/
def loaded (block eras : List Word) : State :=
  { State.reset with
    regs := { Regs.reset with version := 1, ecLevel := 1, eraseCount := BitVec.ofNat 9 eras.length, gfA := 1 }
    mem  := writeEntries (writeEntries [] .blk 0 block) .erasure 0 eras }

/-- Block 0, SYND[0..6], BSTAT[0] and STATUS after a command. -/
def rsAfter (r : Result) : Option (List Word × List Word × Word × Word) :=
  match r with
  | .next t => some ((List.range 26).map (readEntry 0 t.mem .blk), (List.range 7).map (readEntry 0 t.mem .synd),
                     readEntry 0 t.mem .bstat 0, statusWord t.status)
  | _       => none

/-- §5.2, the step of CORRECT 0 in program P2. -/
theorem test_correct_listed : rsAfter (step ((loaded (received 0) [0, 5]).withFetchWord 32 0x00004)) =
    some (validBlock, [0xBF, 0xA4, 0xB2, 0x0C, 0x35, 0xE8, 0x8E], 0x00020100, 0x0000000A) := by decide +kernel

/-- §5.6, CORRECT 0, auto on the same block with U = 1 at positions 0 and 5. -/
theorem test_correct_auto : rsAfter (step ((loaded (received 0x100) []).withFetchWord 32 0x10004)) =
    some (validBlock, [0xBF, 0xA4, 0xB2, 0x0C, 0x35, 0xE8, 0x8E], 0x00020100, 0x0000000A) := by decide +kernel

/-- §5.4, the list 0 5 5: a zero denominator; BLK unchanged. -/
theorem test_correct_repeated : rsAfter (step ((loaded (received 0) [0, 5, 5]).withFetchWord 32 0x00004)) =
    some (received 0, [0xBF, 0xA4, 0xB2, 0x0C, 0x35, 0xE8, 0x8E], 0x00030107, 0x0000070E) := by decide +kernel

/-- §5.4: the list 0 26, then CORRECT 1 of one block. -/
theorem test_correct_errors :
    (match step ((loaded validBlock [0, 26]).withFetchWord 32 0x004) with | .next t => statusWord t.status | _ => 0) = 0x00000606 ∧
    (match step ((loaded validBlock [0, 25]).withFetchWord 32 0x104) with | .next t => statusWord t.status | _ => 0) = 0x00000506 := by
  decide +kernel

/-- CORRECT_ALL on one block of U flags does what CORRECT 0, auto does (R253). -/
theorem test_correctAll : rsAfter (step ((loaded (received 0x100) []).withFetchWord 32 0x00005)) =
    some (validBlock, [0xBF, 0xA4, 0xB2, 0x0C, 0x35, 0xE8, 0x8E], 0x00020100, 0x0000000A) := by decide +kernel

/-- R253, R254: eight flagged positions exceed the seven EC codewords: FAIL_COUNT 1, {CODE 7, SNZ 0, NU 8}, ERR. -/
theorem test_correctAll_fails :
    (match step ((loaded ((validBlock.take 8).map (fun v => v ||| 0x100) ++ validBlock.drop 8) []).withFetchWord 32 0x00005) with
     | .next t => (t.regs.failCount, readEntry 0 t.mem .bstat 0, readEntry 0 t.mem .blk 7, statusWord t.status)
     | _       => (0, 0, 0, 0)) = (1, 0x00080007, 0x1EC, 0x00000706) := by decide +kernel

/-- §5.1: all syndromes of the valid block are 0. -/
theorem test_syndrome_valid :
    (match step ((loaded validBlock []).withFetchWord 32 0x00003) with
     | .next t => ((List.range 7).map (readEntry 0 t.mem .synd), statusWord t.status)
     | _       => ([], 0)) = ([0, 0, 0, 0, 0, 0, 0], 0x00000002) := by decide +kernel

/-- §5.2: S_0 = BF is the value at 1, the XOR of all codewords (R220). -/
theorem test_polyEval :
    (match step ((loaded (received 0) []).withFetchWord 32 0x00006) with
     | .next t => (t.regs.gfR, statusWord t.status)
     | _       => (0, 0)) = (0xBF, 0x00000002) := by decide +kernel

/-! ### The port: 20_memory.md and program P5 -/

/-- STATUS and the values read at the end of a list of moves. -/
def portAfter (l : List Move) : Option (Word × List Word) :=
  match Sys2Proof.core.run l.length { State.reset with inputs := l } with
  | .next t => some (statusWord t.status, t.reads)
  | _       => none

/-- R81, R85: a narrow write, a misaligned read, a reserved read: BUSERR, and 0 returned. -/
theorem test_port_refuses : portAfter [.port (.write 0x00010 0x3 1), .port (.read 0x00012 0xF), .port (.read 0x00048 0xF)] =
    some (0x00000010, [0, 0]) := by decide +kernel

/-- 10_state.md §2: the registers at 0x10, 0x14, 0x28, 0x2C, 0x30 and 0x44. -/
theorem test_register_offsets : [0x00010, 0x00014, 0x00028, 0x0002C, 0x00030, 0x00044].map target =
    [.reg .version, .reg .ecLevel, .reg .gfA, .reg .gfB, .reg .gfR, .reg .totals] := by decide

/-- R51: 0xFFFF_FFFF written to VERSION stores 63; ID ignores a write. -/
theorem test_port_register : portAfter [wr .version 0xFFFFFFFF, wr .id 0, rd .version, rd .id] =
    some (0x00000000, [0x51520001, 63]) := by decide +kernel

/-- R87: while BUSY = 1 a write of GF_A is dropped with BUSERR, and STATUS reads as it is; `clr` then clears BUSERR. -/
theorem test_port_busy : portAfter [cmd .nop, wr .gfA 5, rd .status, clr, .engine, rd .gfA] =
    some (0x00000002, [0, 0x00000011]) := by decide +kernel

/-! ### Witnesses: states and operands that meet the hypotheses of the statements -/

/-- The geometry of v1-L. -/
def v1L : Geometry := { size := 21, ec := 7, group0 := ⟨1, 19⟩, group1 := ⟨0, 0⟩ }

theorem geometry_v1L : geometry (sized 1 1) = some v1L := by decide +kernel

/-- A state with any memory, VERSION = 1 and EC_LEVEL = 1. -/
def v1With (m : Memory) : State := (sized 1 1).setMem m

theorem geometry_v1With (m : Memory) : geometry (v1With m) = some v1L := geometry_v1L

theorem geometry_loaded (b e : List Word) : geometry (loaded b e) = some v1L := geometry_v1L

/-- A state with a table of one entry, which R9 refuses. -/
def shortTable : State := { State.reset with rom := { vecTable := .custom [⟨7, [⟨1, 19⟩]⟩] [19], maskFn := .iso } }

/-- A state with a table whose every entry is v1-L, and known totals of `d` data codewords. -/
def uniformTable (d : Nat) : State :=
  { State.reset with rom := { vecTable := .custom (List.replicate 160 ⟨7, [⟨1, 19⟩]⟩) (List.replicate 160 d), maskFn := .iso } }

/-- 41_deinterleave.md R181: the known total 19 is met, 20 is not, and `step` refuses the second table. -/
theorem test_table_totals : vecTableOk (uniformTable 19).rom.vecTable = true ∧
    (match step (uniformTable 20) with | .refused r => decide (r = .badVecTable) | _ => false) = true := by decide +kernel

/-- Reset with a command word accepted. -/
def busyWith (w : Word) : State := acceptCommand w State.reset

/-- The row CORRECT of R112. -/
def correctRow : OpRow := ⟨"CORRECT", 0x00000004, 0xFFFE00FF, fun k u => .correct k u⟩

theorem witness_IllegalWordsCompleteWithBadCmd :
    (∃ (w : Word) (r r' : OpRow), r ∈ opcodeMap ∧ r' ∈ opcodeMap ∧ r.hits w = true ∧ r'.hits w = true) ∧
    State.reset.status.busy = false ∧ decode (busyWith 0x07).pending = .error (.reservedOpcode 0x07) ∧
    decode (busyWith 0x104FF).pending = .error (.fixedBitsDiffer 0xFF) :=
  ⟨⟨0x04, correctRow, correctRow, by simp [opcodeMap, correctRow], by simp [opcodeMap, correctRow], by decide, by decide⟩,
    by decide, by decide, by decide⟩

theorem witness_EngineRunsDecodedCommand :
    (busyWith 0x10).status.busy = true ∧ decode (busyWith 0x10).pending = .ok .gfAdd ∧ (busyWith 0x10).inputs = [] ∧
    ((busyWith 0x10).setInputs [.engine, rd .gfR]).inputs = .engine :: [rd .gfR] ∧
    VecTableLegal (busyWith 0x10).rom.vecTable := ⟨by decide, by decide, by decide, rfl, isoVecTable_legal⟩

theorem witness_PlacedCommandRunsNext :
    VecTableLegal State.reset.rom.vecTable ∧ decodeTableWord 32 0x10304 = some (.correct 3 true) :=
  ⟨isoVecTable_legal, by decide⟩

theorem witness_HostMovesAndIdleTurns :
    VecTableLegal State.reset.rom.vecTable ∧ State.reset.status.busy = false ∧ State.reset.inputs = [] ∧
    (State.reset.setInputs [rd .id]).inputs = .port (.read 0x00000 0xF) :: [] ∧
    (State.reset.setInputs [.engine]).inputs = .engine :: [] := ⟨isoVecTable_legal, by decide, by decide, by decide, by decide⟩

theorem witness_StepAnswersNextUnlessTableBroken :
    VecTableLegal State.reset.rom.vecTable ∧ ¬ VecTableLegal shortTable.rom.vecTable ∧
    VecTableWf (vecEntries (uniformTable 20).rom.vecTable) ∧ ¬ VecTableLegal (uniformTable 20).rom.vecTable :=
  ⟨isoVecTable_legal, by decide, by decide +kernel, by decide +kernel⟩

/-- The error code of an answer. -/
def codeOf : Result → Option ErrCode
  | .next t => some t.status.errCode
  | _       => none

theorem next_of_codeOf {r : Result} {c : ErrCode} (h : codeOf r = some c) : ∃ t, r = .next t ∧ t.status.errCode = c := by
  cases r with
  | next t => exact ⟨t, rfl, Option.some.inj h⟩
  | fault f => cases f
  | refused _ => cases h

theorem witness_EveryCommandCompletes : Instr.nop ≠ .reset ∧ Instr.reset = .reset := by decide

theorem witness_ErrorsLeaveOnlyStatus :
    ∃ t, exec .gfInv State.reset = .next t ∧ t.status.errCode ≠ .none ∧ t.status.errCode ≠ .uncorrectable := by
  obtain ⟨t, h, hc⟩ := next_of_codeOf (r := exec .gfInv State.reset) (c := .divZero) (by decide +kernel)
  exact ⟨t, h, by simp [hc], by simp [hc]⟩

theorem witness_CommandsRaiseOnlyTheirCodes : ∃ t, exec .gfLog State.reset = .next t :=
  (next_of_codeOf (c := .logZero) (by decide +kernel)).imp fun _ h => h.1

/-- A cell of MOD read after it was written. -/
theorem modCell_written (d : Nat) (m : Memory) (x y : Nat) (v : Word) :
    modCell d (writeEntry m .mod (modIndex x y) v) x y = modCellOf (v &&& 7) := by
  rw [modCell, readEntry_writeEntry]; rfl

/-- A bit read after it was written. -/
theorem bitCode_written (d : Nat) (m : Memory) (i : Nat) (v : Word) :
    bitCode d (writeEntry m .bits i v) i = (v &&& 3).extractLsb' 0 2 := by
  rw [bitCode, readEntry_writeEntry]; rfl

/-- v1-L with 208 legal bits announced and bit 207 reserved. -/
def badBit : State :=
  { v1With (writeEntry [] .bits 207 3) with regs := { Regs.reset with version := 1, ecLevel := 1, bitCount := 208 } }

/-- v1-L with an erasure count of 257. -/
def longList : State := { sized 1 1 with regs := { (sized 1 1).regs with eraseCount := 257 } }

theorem witness_ErrorsAreReportedInOrder :
    ¬ VersionValid State.reset ∧ ¬ VersionValid (sized 41 0) ∧
    (geometry (sized 1 1) = some v1L ∧ v1L.blocks ≤ (1 : BitVec 8).toNat) ∧
    (geometry (v1With (writeEntry [] .mod (modIndex 0 20) 3)) = some v1L ∧
      ∃ p ∈ visitOrder v1L.size, (modCell 0 (writeEntry [] .mod (modIndex 0 20) 3) p.1 p.2).skip = false ∧
        (modCell 0 (writeEntry [] .mod (modIndex 0 20) 3) p.1 p.2).val = 3) ∧
    (sized 1 1).regs.bitCount.toNat < 8 * (v1L.dataTotal + v1L.ecTotal) ∧
    (geometry badBit = some v1L ∧ 8 * (v1L.dataTotal + v1L.ecTotal) ≤ badBit.regs.bitCount.toNat ∧
      ∃ i, i < 8 * (v1L.dataTotal + v1L.ecTotal) ∧ bitCode badBit.draws badBit.mem i = 3) ∧
    (geometry longList = some v1L ∧ (0 : BitVec 8).toNat < v1L.blocks ∧ erasureList false 0 (v1L.blockLen 0) longList = none) ∧
    erasureList false 0 (v1L.blockLen 0) (loaded validBlock [0, 26]) = none :=
  ⟨by decide, by decide, ⟨geometry_v1L, by decide⟩,
    ⟨geometry_v1L, (0, 20), by decide +kernel, by rw [modCell_written]; decide, by rw [modCell_written]; decide⟩, by decide,
    ⟨geometry_v1L, by decide, 207, by decide, bitCode_written ..⟩, ⟨geometry_v1L, by decide, by decide⟩, by decide +kernel⟩

theorem witness_NopOnlyCompletes : opField 0x00000100 = 0x00 ∧ (0x00000100 : Word) ≠ 0x00000000 := by decide

theorem witness_ResetCommandRestoresRegisters : opField 0x000001FF = 0xFF ∧ (0x000001FF : Word) ≠ 0x000000FF := by decide

theorem witness_FieldStatements : (254 : Nat) < 255 ∧ (0x8E : Elem) ≠ 0 ∧ gfInv 0x8E = some 0x02 := by decide +kernel

theorem witness_GfDivDivides :
    (field 0x8F 0x0100).regs.gfB.setWidth 8 = (0 : Elem) ∧ (field 0x8F 0x01CA).regs.gfB.setWidth 8 ≠ (0 : Elem) := by decide

theorem witness_GfOperandZeroOrNot : (field 0 5).regs.gfA = 0 ∧ (field 0x53 0).regs.gfA ≠ 0 := by decide

theorem witness_BlockCommands :
    ¬ VersionValid State.reset ∧ geometry (loaded validBlock []) = some v1L ∧ v1L.blocks ≤ (1 : BitVec 8).toNat ∧
    (0 : BitVec 8).toNat < v1L.blocks ∧ 6 < v1L.ec ∧ (loaded validBlock []).regs.gfA = gfExp (0 : Nat) :=
  ⟨by decide, geometry_v1L, by decide, by decide, by decide, by decide +kernel⟩

theorem witness_PolynomialStatements :
    ([1, 2] : List Elem) ≠ [] ∧ (3 : Elem) ≠ 0 ∧ ([7] : List Elem).length < ([1, 2] : List Elem).length ∧
    2 ≤ ([1, 2] : List Elem).length := by decide

theorem witness_VisitOrderClosedForm :
    (1 ≤ 1 ∧ 1 ≤ 40 ∧ 21 = 4 * 1 + 17) ∧ (1 ≤ 40 ∧ 40 ≤ 40 ∧ 177 = 4 * 40 + 17) ∧ 31151 < 177 * (177 - 1) := by decide

/-- Every entry of a run of equal words holds that word. -/
theorem readEntry_replicate (d n : Nat) (w : Window) (v : Word) {i : Nat} (hi : i < n) :
    readEntry d (writeEntries [] w 0 (List.replicate n v)) w i = v &&& windowMask w := by
  have h : (List.replicate n v)[i]? = some v := List.getElem?_replicate_of_lt hi
  rw [← readEntry_writeEntries d _ [] 0 h, Nat.zero_add]

theorem visitOrder_bounded : ∀ p ∈ visitOrder 21, p.1 < 21 ∧ p.2 < 21 ∧ p.1 ≠ 6 := by decide +kernel

/-- What every cell of an all-skipped grid is. -/
def Skipped (m : Memory) : Prop := ∀ d x y, x < 256 → y < 256 → modCell d m x y = { val := 0, skip := true }

theorem skipped_replicate (n : Nat) (hn : 65536 ≤ n) : Skipped (writeEntries [] .mod 0 (List.replicate n 4)) := by
  intro d x y hx hy
  rw [modCell, readEntry_replicate d n .mod 4 (by simp only [modIndex]; omega)]
  rfl

theorem traverse_of_skipped {m : Memory} (hm : Skipped m) :
    ∃ t, exec .traverse (v1With m) = .next t ∧ t.regs.bitCount = 0 ∧ t.regs.traceCount = 420 := by
  have hc : ∀ d, ∀ p ∈ visitOrder 21, modCell d m p.1 p.2 = { val := 0, skip := true } := fun d p hp => by
    obtain ⟨hx, hy, -⟩ := visitOrder_bounded p hp
    exact hm d _ _ (by omega) (by omega)
  have h : exec .traverse (v1With m) = complete (storeWalk
      (bitsOf (maskBit .iso 0) (modCell 1 m) (visitOrder 21)) (traceOf (modCell 1 m) (visitOrder 21)) (v1With m)) := by
    show execTraverse _ = _
    rw [execTraverse, withGeometry_some (geometry_v1With m)]
    refine if_neg ?_
    simp only [List.any_eq_true, not_exists, not_and]
    intro p hp
    rw [show modCell (v1With m).draws (v1With m).mem p.1 p.2 = _ from hc 0 p hp]
    decide
  refine ⟨_, h, ?_, ?_⟩
  · have hb : (visitOrder 21).filter (fun p => !(modCell 1 m p.1 p.2).skip) = [] := by
      rw [List.filter_eq_nil_iff]
      exact fun p hp => by simp [hc 1 p hp]
    simp [completion, storeWalk, bitsOf, hb]
  · have hl : (visitOrder 21).length = 420 := by decide +kernel
    simp [completion, storeWalk, traceOf, hl]

theorem traverse_answers (s : State) : ∃ t, exec .traverse s = .next t := by
  refine withGeometry_elim (P := fun r => ∃ t, r = .next t) (fun _ => ⟨_, rfl⟩) fun g _ => ?_
  dsimp only
  split <;> exact ⟨_, rfl⟩

theorem deinterleave_answers (s : State) : ∃ t, exec .deinterleave s = .next t := by
  refine withGeometry_elim (P := fun r => ∃ t, r = .next t) (fun _ => ⟨_, rfl⟩) fun g _ => ?_
  dsimp only
  split
  · exact ⟨_, rfl⟩
  · split <;> exact ⟨_, rfl⟩

/-- The hypotheses of TraverseWritesWalk on any all-skipped memory. -/
theorem walk_hypotheses {m : Memory} (hm : Skipped m) : geometry (v1With m) = some v1L ∧
    ∀ p ∈ visitOrder v1L.size, (modCell (v1With m).draws (v1With m).mem p.1 p.2).skip = true ∨
      (modCell (v1With m).draws (v1With m).mem p.1 p.2).val ≠ 3 := by
  refine ⟨geometry_v1L, fun p hp => .inl ?_⟩
  obtain ⟨hx, hy, -⟩ := visitOrder_bounded p hp
  exact congrArg ModCell.skip (hm 0 _ _ (by omega) (by omega))

/-- MOD entries 0 to 65535, each {VAL 0, SKIP 1}. -/
def allSkip : Memory := writeEntries [] .mod 0 (List.replicate 65536 4)

theorem allSkip_skipped : Skipped allSkip := skipped_replicate _ (Nat.le_refl _)

theorem witness_TraverseWritesWalk : geometry (v1With allSkip) = some v1L ∧
    ∀ p ∈ visitOrder v1L.size, (modCell (v1With allSkip).draws (v1With allSkip).mem p.1 p.2).skip = true ∨
      (modCell (v1With allSkip).draws (v1With allSkip).mem p.1 p.2).val ≠ 3 := walk_hypotheses allSkip_skipped

/-- 95_test_vectors.md §3.4: every cell SKIP 1 gives BIT_COUNT = 0 and TRACE_COUNT = 420. -/
theorem test_traverse_all_skip :
    ∃ t, exec .traverse (v1With allSkip) = .next t ∧ t.regs.bitCount = 0 ∧ t.regs.traceCount = 420 :=
  traverse_of_skipped allSkip_skipped

/-- The hypotheses of TraverseReadsOnlyVisitedCells on `m` and a memory that differs in the cell (6, 0), which is never read. -/
def WalkPair (m : Memory) : Prop := geometry (v1With m) = some v1L ∧
    (∀ x y, x < v1L.size → y < v1L.size → x ≠ 6 → ∀ a, inEntries .mod (modIndex x y) 1 a →
      getByte (writeEntry m .mod (modIndex 6 0) 3) a = getByte (v1With m).mem a) ∧
    (∃ t, exec .traverse (v1With m) = .next t) ∧
    ∃ t, exec .traverse ((v1With m).setMem (writeEntry m .mod (modIndex 6 0) 3)) = .next t

theorem walkPair (m : Memory) : WalkPair m := by
  refine ⟨geometry_v1L, fun x y hx hy h6 a ha => ?_, traverse_answers _, traverse_answers _⟩
  apply getByte_writeEntry_outside
  have hx' : x < 21 := hx
  simp only [inEntries, entryAddr, modIndex, windowBase] at ha ⊢
  omega

theorem witness_TraverseReadsOnlyVisitedCells : WalkPair allSkip := walkPair _

/-- v1-L with 208 bits announced. -/
def streamed (m : Memory) : State :=
  { v1With m with regs := { Regs.reset with version := 1, ecLevel := 1, bitCount := 208 } }

/-- The hypotheses of DeinterleaveFillsBlocks on any memory whose bits are 0. -/
theorem fill_hypotheses {m : Memory} (hm : ∀ i, i < 208 → bitCode 0 m i = 0) :
    VecTableWf (vecEntries (streamed m).rom.vecTable) ∧ geometry (streamed m) = some v1L ∧
    8 * (v1L.dataTotal + v1L.ecTotal) ≤ (streamed m).regs.bitCount.toNat ∧
    ∀ i, i < 8 * (v1L.dataTotal + v1L.ecTotal) → bitCode (streamed m).draws (streamed m).mem i ≠ 3 := by
  refine ⟨isoVecTable_wf, geometry_v1L, (by decide : 8 * (v1L.dataTotal + v1L.ecTotal) ≤ (208 : BitVec 16).toNat), fun i hi => ?_⟩
  rw [show bitCode (streamed m).draws (streamed m).mem i = 0 from hm i hi]
  decide

/-- BITS entries 0 to 207, each the known bit 0. -/
def zeroBits : Memory := writeEntries [] .bits 0 (List.replicate 208 0)

theorem zeroBits_known (i : Nat) (hi : i < 208) : bitCode 0 zeroBits i = 0 := by
  rw [bitCode, zeroBits, readEntry_replicate 0 208 .bits 0 hi]
  rfl

theorem witness_DeinterleaveFillsBlocks :
    VecTableWf (vecEntries (streamed zeroBits).rom.vecTable) ∧ geometry (streamed zeroBits) = some v1L ∧
    8 * (v1L.dataTotal + v1L.ecTotal) ≤ (streamed zeroBits).regs.bitCount.toNat ∧
    ∀ i, i < 8 * (v1L.dataTotal + v1L.ecTotal) → bitCode (streamed zeroBits).draws (streamed zeroBits).mem i ≠ 3 :=
  fill_hypotheses zeroBits_known

/-- The hypotheses of DeinterleaveIgnoresRemainder on `m` and a memory that differs in BITS[208], which is never read. -/
def StreamPair (m : Memory) : Prop :=
    VecTableWf (vecEntries (streamed m).rom.vecTable) ∧ geometry (streamed m) = some v1L ∧
    (∀ a, inEntries .bits 0 (8 * (v1L.dataTotal + v1L.ecTotal)) a →
      getByte (writeEntry m .bits 208 3) a = getByte (streamed m).mem a) ∧
    (∃ t, exec .deinterleave (streamed m) = .next t) ∧
    ∃ t, exec .deinterleave ((streamed m).setMem (writeEntry m .bits 208 3)) = .next t

theorem streamPair (m : Memory) : StreamPair m := by
  refine ⟨isoVecTable_wf, geometry_v1L, fun a ha => ?_, deinterleave_answers _, deinterleave_answers _⟩
  apply getByte_writeEntry_outside
  have h8 : 8 * (v1L.dataTotal + v1L.ecTotal) = 208 := by decide
  simp only [inEntries, entryAddr, windowBase, h8] at ha ⊢
  omega

theorem witness_DeinterleaveIgnoresRemainder : StreamPair zeroBits := streamPair _

theorem witness_CodewordAssembly : (0 : Nat) < 8 ∧ (7 : Nat) < 8 := by decide

/-- v1-L with an erasure count of exactly 256, every listed position 0. -/
def fullList : State := loaded validBlock (List.replicate 256 0)

theorem witness_ErasureListForms :
    256 < longList.regs.eraseCount.toNat ∧ fullList.regs.eraseCount.toNat ≤ 256 ∧
    ((loaded validBlock [0, 26]).regs.eraseCount.toNat ≤ 256 ∧ ∃ m, m < (loaded validBlock [0, 26]).regs.eraseCount.toNat ∧
      26 ≤ (readEntry 0 (loaded validBlock [0, 26]).mem .erasure m).toNat) ∧
    ∀ m, m < (loaded validBlock [0, 25]).regs.eraseCount.toNat →
      (readEntry 0 (loaded validBlock [0, 25]).mem .erasure m).toNat < 26 :=
  ⟨by decide, by decide +kernel, ⟨by decide, 1, by decide, by decide +kernel⟩, by decide +kernel⟩

/-- Both forms of the list, on success, on a repeated position and beyond the capacity. -/
theorem witness_CorrectWritesBlock :
    VecTableWf (vecEntries (loaded (received 0) [0, 5]).rom.vecTable) ∧ geometry (loaded (received 0) [0, 5]) = some v1L ∧
    (0 : BitVec 8).toNat < v1L.blocks ∧ erasureList false 0 (v1L.blockLen 0) (loaded (received 0) [0, 5]) = some [0, 5] ∧
    erasureList true 0 (v1L.blockLen 0) (loaded (received 0x100) []) = some [0, 5] ∧
    erasureList false 0 (v1L.blockLen 0) (loaded (received 0) [0, 5, 5]) = some [0, 5, 5] ∧
    (blockCorrected (loaded (received 0) [0, 5]) v1L 0 [0, 5]).isSome = true ∧
    blockCorrected (loaded (received 0) [0, 5, 5]) v1L 0 [0, 5, 5] = none :=
  ⟨isoVecTable_wf, geometry_v1L, by decide, by decide +kernel, by decide +kernel, by decide +kernel, by decide +kernel,
    by decide +kernel⟩

theorem witness_TooManyErasuresAreUncorrectable :
    VecTableWf (vecEntries (loaded validBlock [0, 1, 2, 3, 4, 5, 6, 7]).rom.vecTable) ∧
    geometry (loaded validBlock [0, 1, 2, 3, 4, 5, 6, 7]) = some v1L ∧ (0 : BitVec 8).toNat < v1L.blocks ∧
    erasureList false 0 (v1L.blockLen 0) (loaded validBlock [0, 1, 2, 3, 4, 5, 6, 7]) = some [0, 1, 2, 3, 4, 5, 6, 7] ∧
    v1L.ec < [0, 1, 2, 3, 4, 5, 6, 7].length :=
  ⟨isoVecTable_wf, geometry_v1L, by decide, by decide +kernel, by decide⟩

theorem witness_RsListStatements :
    ([1] : List Elem) ≠ [] ∧ 26 ≤ 255 ∧ (∀ p ∈ [0, 5, 25], p < 26) ∧ [0, 5, 25].Nodup ∧ ¬ [0, 5, 5].Nodup ∧
    [0, 5, 25].Perm [25, 5, 0] ∧ (validBlock.map fun v => v.setWidth 8 : List Elem).length ≤ 255 := by decide

/-- The VAL fields of the valid block. -/
def validMessage : List Elem := validBlock.map fun v => v.setWidth 8

theorem witness_CorrectRestoresValidCodeword :
    VecTableWf (vecEntries (loaded (received 0) [0, 5]).rom.vecTable) ∧ geometry (loaded (received 0) [0, 5]) = some v1L ∧
    (0 : BitVec 8).toNat < v1L.blocks ∧ erasureList false 0 (v1L.blockLen 0) (loaded (received 0) [0, 5]) = some [0, 5] ∧
    [0, 5].Nodup ∧ [0, 5].length ≤ v1L.ec ∧ validMessage.length = v1L.blockLen 0 ∧
    (∀ i : Nat, i < v1L.ec → polyEval validMessage (gfExp i) = 0) ∧
    ∀ j, j < v1L.blockLen 0 → j ∉ [0, 5] →
      validMessage[j]? = some (blkEntry 0 (loaded (received 0) [0, 5]).mem 0 j).val :=
  ⟨isoVecTable_wf, geometry_v1L, by decide, by decide +kernel, by decide, by decide, by decide, by decide +kernel,
    by decide +kernel⟩

/-- A memory is written whole when each of its cells has its three neighbours. -/
theorem writtenWhole_of_cells {m : Memory}
    (h : ∀ c ∈ m, ∀ i, i < 4 → (getByte m (4 * (c.1 / 4) + i)).isSome = true) : writtenWhole m := by
  have mem : ∀ (l : Memory) a, (getByte l a).isSome = true → ∃ c ∈ l, c.1 = a := by
    intro l
    induction l with
    | nil => exact fun a ha => by simp [getByte] at ha
    | cons c l ih =>
      intro a ha
      by_cases hc : c.1 = a
      · exact ⟨c, List.mem_cons_self .., hc⟩
      · obtain ⟨x, v⟩ := c
        simp only [getByte, if_neg hc] at ha
        exact (ih a ha).imp fun _ h => ⟨List.mem_cons_of_mem _ h.1, h.2⟩
  intro a ha b hb
  obtain ⟨c, hc, rfl⟩ := mem m a ha
  have := h c hc (b % 4) (by omega)
  rwa [← hb, Nat.div_add_mod] at this

/-- The block of §5.6 with its unknown flags meets the invariant. -/
theorem flagged_inv : Inv (loaded (received 0x100) []) where
  tableLegal := isoVecTable_legal
  memSorted  := writeEntries_wf (writeEntries_wf (by decide : Memory.wf []) ..) ..
  memLegal   := by
    have h : ∀ c ∈ (loaded (received 0x100) []).mem,
        windowAt c.1 = some .blk ∧ c.2 &&& ~~~(byteOf (windowMask .blk) (c.1 % 4)) = 0 := by decide +kernel
    exact fun c hc => ⟨.blk, h c hc⟩
  memWhole   := writtenWhole_of_cells (by decide +kernel)
  busyOrDone := by decide
  traceLegal := .inl (by decide)
  failsLegal := by decide

theorem witness_SecondAutoCorrectChangesNothing :
    Inv (loaded (received 0x100) []) ∧ geometry (loaded (received 0x100) []) = some v1L ∧
    (0 : BitVec 8).toNat < v1L.blocks ∧
    (∀ j, j < v1L.blockLen 0 → (getByte (loaded (received 0x100) []).mem (entryAddr .blk (blkIndex 0 j))).isSome = true) ∧
    ∃ t, exec (.correct 0 true) (loaded (received 0x100) []) = .next t ∧ t.status.errCode = .none :=
  ⟨flagged_inv, geometry_v1L, by decide, by decide +kernel, next_of_codeOf (by decide +kernel)⟩

/-- The valid block with the unknown flag at its first eight positions. -/
def overflagged : List Word := (validBlock.take 8).map (fun v => v ||| 0x100) ++ validBlock.drop 8

/-- Block 0 of v1-L, its only block, is corrected in the first state and fails in the second. -/
theorem witness_CorrectAllIsBlockByBlock :
    VecTableWf (vecEntries (loaded (received 0x100) []).rom.vecTable) ∧ geometry (loaded (received 0x100) []) = some v1L ∧
    0 < v1L.blocks ∧ blockFlagged (loaded (received 0x100) []) v1L 0 = [0, 5] ∧
    (blockCorrected (loaded (received 0x100) []) v1L 0 [0, 5]).isSome = true ∧
    geometry (loaded overflagged []) = some v1L ∧ blockFlagged (loaded overflagged []) v1L 0 = [0, 1, 2, 3, 4, 5, 6, 7] ∧
    blockCorrected (loaded overflagged []) v1L 0 [0, 1, 2, 3, 4, 5, 6, 7] = none :=
  ⟨isoVecTable_wf, geometry_v1L, by decide, by decide +kernel, by decide +kernel, geometry_v1L, by decide +kernel,
    by decide +kernel⟩

theorem witness_CommandsWriteOnly :
    VecTableWf (vecEntries State.reset.rom.vecTable) ∧ Instr.gfExp ≠ .reset ∧ (∃ t, exec .gfExp State.reset = .next t) ∧
    ∃ t, exec .gfExp State.reset = .next t ∧ t.regs.gfR ≠ State.reset.regs.gfR :=
  ⟨isoVecTable_wf, by decide, ⟨_, rfl⟩, _, rfl, by decide +kernel⟩

theorem witness_PortIdleAndBusy : State.reset.status.busy = false ∧ (busyWith 0x00).status.busy = true ∧
    decode 0x00000007 = .error (.reservedOpcode 0x07) := by decide

/-- An address of each kind of refusal, at the edges of the reserved ranges. -/
theorem witness_RefusedAccesses :
    (0x7 : BitVec 4) ≠ 0xF ∧ (0x00012 : Addr).toNat % 4 ≠ 0 ∧ (0x48 ≤ (0x00048 : Addr).toNat ∧ (0x003FC : Addr).toNat < 0x400) ∧
    (0xE00 ≤ (0x00E00 : Addr).toNat ∧ (0x3FFFC : Addr).toNat < 0x40000) ∧ 0xE0000 ≤ (0xE0000 : Addr).toNat := by decide

theorem witness_AddressMap : (0x00044 : Addr).toNat % 4 = 0 ∧ (0x00044 : Addr).toNat < 0x48 ∧
    (0x400 ≤ (0x00400 : Addr).toNat ∧ (0x007FC : Addr).toNat < 0x800) ∧
    (0x800 ≤ (0x00800 : Addr).toNat ∧ (0x00BFC : Addr).toNat < 0xC00) ∧
    (0xC00 ≤ (0x00C00 : Addr).toNat ∧ (0x00DFC : Addr).toNat < 0xE00) ∧
    (0x40000 ≤ (0x40000 : Addr).toNat ∧ (0x7FFFC : Addr).toNat < 0x80000) ∧
    (0x80000 ≤ (0x80000 : Addr).toNat ∧ (0x9FFFC : Addr).toNat < 0xA0000) ∧
    (0xA0000 ≤ (0xA0000 : Addr).toNat ∧ (0xBFFFC : Addr).toNat < 0xC0000) ∧
    (0xC0000 ≤ (0xC0000 : Addr).toNat ∧ (0xDFFFC : Addr).toNat < 0xE0000) := by decide

theorem witness_WindowAccess : State.reset.status.busy = false ∧ 65535 < windowSize .mod ∧ windowWritable .mod = true ∧
    127 < windowSize .bstat ∧ windowWritable .bstat = false ∧ 255 < 256 := by decide

theorem witness_BusyAccess : (busyWith 0x00).status.busy = true ∧ (0x00010 : Addr) ≠ 0x00004 ∧ (0x00010 : Addr) ≠ 0x00008 ∧
    (0x00010 : Addr).toNat % 4 = 0 ∧ (0x00010 : Addr) ∉ [(0x00000 : Addr), 0x00004, 0x00008, 0x0000C] ∧
    target 0x00010 ≠ .reserved ∧ target 0xDFFFC ≠ .reserved := by decide

theorem witness_GeometryViews : (sized 1 1).rom.vecTable = .iso ∧ (sized 1 1).regs.version = 1 ∧ (sized 1 1).regs.ecLevel = 1 ∧
    (sized 5 3).rom.vecTable = .iso ∧ (sized 40 2).rom.vecTable = .iso ∧ ¬ VersionValid State.reset ∧ ¬ VersionValid (sized 63 3) ∧ VersionValid (sized 1 1) ∧
    VersionValid (sized 40 3) ∧ VecTableWf (vecEntries (sized 1 1).rom.vecTable) ∧ 0 < v1L.blocks ∧ v1L.group0.codewords < 256 :=
  ⟨rfl, rfl, rfl, rfl, rfl, by decide, by decide, by decide, by decide, isoVecTable_wf, by decide, by decide⟩

theorem witness_InterruptLine : (∃ t, exec .nop State.reset = .next t) ∧ State.reset.status.busy = false ∧
    (0x00000002 : Word).getLsbD 1 = true ∧ (0x00000000 : Word).getLsbD 0 = false ∧ (0x00000001 : Word).getLsbD 0 = true :=
  ⟨⟨_, rfl⟩, by decide, by decide, by decide, by decide⟩

theorem witness_StepKeepsInvariant : Inv (loaded (received 0x100) []) ∧
    ∃ t, step (loaded (received 0x100) []) = .next t := ⟨flagged_inv, ⟨_, rfl⟩⟩

theorem witness_RunEnds : VecTableLegal (State.reset.setInputs [cmd .nop]).rom.vecTable := isoVecTable_legal

end Sys2Proof.Tests
end

/-! # The scope of the machine (00_scope.md): what every step keeps

The memory part of the invariant is kept by every write of an entry inside its window. That every write of a command stays
inside is a matter of bounds: the sizes R9 allows for a geometry, the length of the walk of R142, and the places to which
the round-robin of R174 deals. -/

namespace Sys2Proof.Machine

/-! ### Memory: every write of an entry inside its window keeps what the invariant says of memory -/

/-- What the invariant says of memory, as one predicate that the operations on memory keep. -/
structure MemoryLegal (m : Memory) : Prop where
  sorted : m.wf
  legal  : ∀ c ∈ m, cellLegal c
  whole  : writtenWhole m

theorem Inv.memoryLegal {s : State} (h : Inv s) : MemoryLegal s.mem := ⟨h.memSorted, h.memLegal, h.memWhole⟩

theorem entryAddr_mod_four (w : Window) (i : Nat) : entryAddr w i % 4 = 0 := by
  have hbase : windowBase w % 4 = 0 := by cases w <;> rfl
  simp only [entryAddr]
  omega

/-- The bytes of a window, from its base on (20_memory.md R83). -/
def inWindow (w : Window) (a : Nat) : Prop := windowBase w ≤ a ∧ a < windowBase w + 4 * windowSize w

/-- No two windows of the map overlap. -/
theorem inWindow_unique {w u : Window} {a : Nat} (hw : inWindow w a) (hu : inWindow u a) : u = w := by
  cases w <;> cases u <;> simp only [inWindow, windowBase, windowSize, reduceCtorEq] at hw hu ⊢ <;> omega

theorem windowAt_eq_some_iff {w : Window} {a : Nat} : windowAt a = some w ↔ inWindow w a := by
  have found {u : Window} (h : windowAt a = some u) : inWindow u a := by simpa [inWindow] using List.find?_some h
  refine ⟨found, fun hw => ?_⟩
  cases h : windowAt a with
  | some u => rw [inWindow_unique hw (found h)]
  | none =>
    have hout := List.find?_eq_none.1 h w (by cases w <;> decide)
    simp only [Bool.and_eq_true, decide_eq_true_eq] at hout
    exact absurd hw hout

theorem inWindow_entryAddr_add {w : Window} {i j : Nat} (hi : i < windowSize w) (hj : j < 4) :
    inWindow w (entryAddr w i + j) := by
  simp only [inWindow, entryAddr]
  omega

theorem byteOf_and (v u : Word) (j : Nat) : byteOf (v &&& u) j = byteOf v j &&& byteOf u j := by
  simp [byteOf, BitVec.extractLsb'_and]

theorem mem_writeWord {m : Memory} {a : Nat} {v : Word} {c : Host.Cell} (h : c ∈ writeWord m a v) :
    (∃ j, j < 4 ∧ c = (a + j, byteOf v j)) ∨ c ∈ m := by
  rcases mem_setByte h with h | h
  · exact .inl ⟨3, by omega, h⟩
  rcases mem_setByte h with h | h
  · exact .inl ⟨2, by omega, h⟩
  rcases mem_setByte h with h | h
  · exact .inl ⟨1, by omega, h⟩
  rcases mem_setByte h with h | h
  · exact .inl ⟨0, by omega, h⟩
  · exact .inr h

theorem isSome_getByte_writeWord (m : Memory) (a b : Nat) (v : Word) :
    (getByte (writeWord m a v) b).isSome = true ↔ b - a < 4 ∧ a ≤ b ∨ (getByte m b).isSome = true := by
  rw [getByte_writeWord]
  grind

/-- A write of an entry inside its window keeps the canonical form, the windows and masks of R83 and R84, and whole entries. -/
theorem MemoryLegal.writeEntry {m : Memory} (h : MemoryLegal m) {w : Window} {i : Nat} (hi : i < windowSize w) (v : Word) :
    MemoryLegal (writeEntry m w i v) where
  sorted := writeEntry_wf h.sorted ..
  legal c hc := by
    rcases mem_writeWord hc with ⟨j, hj, rfl⟩ | hc
    · have hlane : (entryAddr w i + j) % 4 = j := by
        have := entryAddr_mod_four w i
        omega
      refine ⟨w, windowAt_eq_some_iff.2 (inWindow_entryAddr_add hi hj), ?_⟩
      show byteOf (v &&& windowMask w) j &&& ~~~byteOf (windowMask w) ((entryAddr w i + j) % 4) = 0
      rw [hlane, byteOf_and, BitVec.and_assoc, BitVec.and_not_self]
      exact BitVec.and_zero
    · exact h.legal c hc
  whole a ha b hb := by
    have haddr := entryAddr_mod_four w i
    rw [Machine.writeEntry, isSome_getByte_writeWord] at ha ⊢
    rcases ha with ha | ha
    · exact .inl (by omega)
    · exact .inr (h.whole a ha b hb)

theorem MemoryLegal.writeEntries {m : Memory} (h : MemoryLegal m) {w : Window} {i : Nat} {vs : List Word}
    (hi : i + vs.length ≤ windowSize w) : MemoryLegal (writeEntries m w i vs) := by
  induction vs generalizing m i with
  | nil => exact h
  | cons v vs ih =>
    simp only [List.length_cons] at hi
    exact ih (h.writeEntry (by omega) v) (by omega)

/-- A write inside the block slots of BLK (10_state.md R55). -/
theorem MemoryLegal.writeBlk {m : Memory} (h : MemoryLegal m) {k j : Nat} (hk : k < 128) (hj : j < 256) (v : Word) :
    MemoryLegal (Machine.writeEntry m .blk (blkIndex k j) v) :=
  h.writeEntry (by simp only [blkIndex, windowSize]; omega) v

/-! ### Geometry: the bounds that R9 gives -/

theorem VecEntry.blocks_eq_slots {e : VecEntry} (h : e.groupsFit) :
    e.blocks = (e.groups.getD 0 ⟨0, 0⟩).blockCount + (e.groups.getD 1 ⟨0, 0⟩).blockCount := by
  obtain ⟨ec, groups⟩ := e
  match groups, h with
  | [], _           => rfl
  | [_], _          => rfl
  | [_, _], _       => rfl
  | _ :: _ :: _ :: _, h => exact absurd h (by simp [VecEntry.groupsFit])

/-- R9 (3) for a group slot: an absent group has no blocks. -/
theorem VecEntry.slot_length_le {e : VecEntry} (h : e.lengthsFit) {i : Nat}
    (hb : 0 < (e.groups.getD i ⟨0, 0⟩).blockCount) : (e.groups.getD i ⟨0, 0⟩).codewords + e.ec ≤ 255 := by
  by_cases hi : i < e.groups.length
  · rw [List.getD_eq_getElem _ _ hi] at hb ⊢
    exact (h _ (List.getElem_mem hi) hb).2
  · rw [List.getD_eq_default _ _ (by omega)] at hb
    exact absurd hb (by decide)

/-- What R9 makes true of a geometry: R9 (2), and R9 (3) for each block. -/
structure Geometry.Fits (g : Geometry) : Prop where
  blocks_pos  : 1 ≤ g.blocks
  blocks_le   : g.blocks ≤ 128
  blockLen_le : ∀ k, k < g.blocks → g.blockLen k ≤ 255

theorem geometry_fits {s : State} {g : Geometry} (ht : VecTableLegal s.rom.vecTable) (hg : geometry s = some g) : g.Fits := by
  obtain ⟨hv, -, hec, hg0, hg1⟩ := geometry_eq_some hg
  obtain ⟨hgroups, hblocks, hlengths, -⟩ := ht.1.2 _ (vecEntry_mem ht.1 hv s.regs.ecLevel)
  have hnb : g.blocks = (vecEntry s.rom.vecTable s.regs.version s.regs.ecLevel).blocks := by
    rw [VecEntry.blocks_eq_slots hgroups, Geometry.blocks, hg0, hg1]
  refine ⟨hnb ▸ hblocks.1, hnb ▸ hblocks.2, fun k hk => ?_⟩
  rw [Geometry.blocks] at hk
  rw [Geometry.blockLen, Geometry.dataLen]
  split
  · rw [hg0, hec]
    exact VecEntry.slot_length_le hlengths (by rw [← hg0]; omega)
  · rw [hg1, hec]
    exact VecEntry.slot_length_le hlengths (by rw [← hg1]; omega)

theorem Geometry.Fits.ec_le {g : Geometry} (h : g.Fits) : g.ec ≤ 255 := by
  have := h.blockLen_le 0 h.blocks_pos
  rw [Geometry.blockLen] at this
  omega

theorem Geometry.sum_dataLen (g : Geometry) : ∑ k ∈ Finset.range g.blocks, g.dataLen k = g.dataTotal := by
  have h0 : ∀ k ∈ Finset.range g.group0.blockCount, g.dataLen k = g.group0.codewords := fun k hk => by
    simp only [Geometry.dataLen, if_pos (Finset.mem_range.1 hk)]
  have h1 : ∀ k ∈ Finset.range g.group1.blockCount, g.dataLen (g.group0.blockCount + k) = g.group1.codewords := fun k _ => by
    simp [Geometry.dataLen]
  rw [Geometry.blocks, Finset.sum_range_add, Finset.sum_congr rfl h0, Finset.sum_congr rfl h1]
  simp [Geometry.dataTotal]

/-! ### The deal of R174 puts every codeword below its block's target -/

/-- If one of the next `fuel` blocks has not reached its target, the inner loop of R174 stops at such a block. -/
theorem skipFull_not_full {nb : Nat} {target : Nat → Nat} {fill : List Nat} :
    ∀ {fuel k i : Nat}, k < nb → i < fuel → fill.getD ((k + i) % nb) 0 ≠ target ((k + i) % nb) →
      skipFull nb target fill fuel k < nb ∧
        fill.getD (skipFull nb target fill fuel k) 0 ≠ target (skipFull nb target fill fuel k) := by
  intro fuel
  induction fuel with
  | zero => exact fun _ hi => absurd hi (by omega)
  | succ fuel ih =>
    intro k i hk hi hfree
    by_cases hfull : fill.getD k 0 = target k
    · rw [skipFull, if_pos hfull]
      cases i with
      | zero => exact absurd hfull (by simpa [Nat.mod_eq_of_lt hk] using hfree)
      | succ i =>
        have hnext : ((k + 1) % nb + i) % nb = (k + (i + 1)) % nb := by rw [Nat.mod_add_mod, Nat.add_right_comm, Nat.add_assoc]
        exact ih (Nat.mod_lt _ (by omega)) (Nat.lt_of_succ_lt_succ hi) (by rwa [hnext])
    · rw [skipFull, if_neg hfull]
      exact ⟨hk, hfull⟩

/-- The state of the outer loop of R174 with `count` codewords left: no block above its target, and room for those left. -/
structure DealRoom (nb : Nat) (target : Nat → Nat) (count : Nat) (fill : List Nat) : Prop where
  slots : fill.length = nb
  below : ∀ k, k < nb → fill.getD k 0 ≤ target k
  room  : ∑ k ∈ Finset.range nb, fill.getD k 0 + count ≤ ∑ k ∈ Finset.range nb, target k

theorem getD_set_succ {fill : List Nat} {k : Nat} (hk : k < fill.length) (i : Nat) :
    (fill.set k (fill.getD k 0 + 1)).getD i 0 = fill.getD i 0 + if i = k then 1 else 0 := by
  by_cases hi : i = k
  · subst hi
    simp [List.getD_eq_getElem?_getD, hk]
  · simp [List.getD_eq_getElem?_getD, hi, Ne.symm hi]

theorem DealRoom.skipFull_lt {nb count : Nat} {target : Nat → Nat} {fill : List Nat} (h : DealRoom nb target (count + 1) fill)
    {k : Nat} (hk : k < nb) :
    skipFull nb target fill nb k < nb ∧
      fill.getD (skipFull nb target fill nb k) 0 < target (skipFull nb target fill nb k) := by
  obtain ⟨j, hj, hfree⟩ : ∃ j ∈ Finset.range nb, fill.getD j 0 < target j :=
    Finset.exists_lt_of_sum_lt (by have := h.room; omega)
  have hj := Finset.mem_range.1 hj
  have hround : (k + (j + nb - k) % nb) % nb = j := by
    rw [Nat.add_mod_mod, show k + (j + nb - k) = j + nb by omega, Nat.add_mod_right, Nat.mod_eq_of_lt hj]
  obtain ⟨hlt, hne⟩ := skipFull_not_full (fill := fill) (target := target) hk (Nat.mod_lt (j + nb - k) (Nat.zero_lt_of_lt hk))
    (by rw [hround]; exact hfree.ne)
  exact ⟨hlt, lt_of_le_of_ne (h.below _ hlt) hne⟩

theorem DealRoom.set_succ {nb count : Nat} {target : Nat → Nat} {fill : List Nat} (h : DealRoom nb target (count + 1) fill)
    {k : Nat} (hk : k < nb) (hlt : fill.getD k 0 < target k) :
    DealRoom nb target count (fill.set k (fill.getD k 0 + 1)) where
  slots := by simpa using h.slots
  below i hi := by
    rw [getD_set_succ (h.slots ▸ hk)]
    have := h.below i hi
    split
    · subst i
      omega
    · omega
  room := by
    simp only [getD_set_succ (h.slots ▸ hk), Finset.sum_add_distrib, Finset.sum_ite_eq', Finset.mem_range, if_pos hk]
    have := h.room
    omega

theorem dealFrom_below_target {nb : Nat} {target : Nat → Nat} {count k : Nat} {fill : List Nat} (hk : k < nb)
    (h : DealRoom nb target count fill) : ∀ e ∈ dealFrom nb target count k fill, e.1 < nb ∧ e.2 < target e.1 := by
  induction count generalizing k fill with
  | zero => simp [dealFrom]
  | succ count ih =>
    obtain ⟨hlt, hfree⟩ := h.skipFull_lt hk
    intro e he
    rcases List.mem_cons.1 he with rfl | he
    · exact ⟨hlt, hfree⟩
    · exact ih (Nat.mod_lt _ (by omega)) (h.set_succ hlt hfree) e he

/-- R174: when the segment's codewords are no more than the targets, each goes to a block, below that block's target. -/
theorem dealOrder_below_target {nb : Nat} {target : Nat → Nat} {count : Nat} (hnb : 0 < nb)
    (hroom : count ≤ ∑ k ∈ Finset.range nb, target k) :
    ∀ e ∈ dealOrder nb target count, e.1 < nb ∧ e.2 < target e.1 :=
  dealFrom_below_target hnb
    { slots := List.length_replicate
      below := fun k hk => by simp [List.getD_eq_getElem?_getD, hk]
      room := by
        have : ∀ k ∈ Finset.range nb, (List.replicate nb 0).getD k 0 = 0 := fun k hk => by
          simp [List.getD_eq_getElem?_getD, Finset.mem_range.1 hk]
        rw [Finset.sum_eq_zero this]
        omega }

/-! ### The walk of R142 has N·(N−1) coordinates -/

theorem length_walkPair (n : Nat) (upward : Bool) (xr : Nat) : (walkPair n upward xr).length = 2 * n := by
  cases upward <;> simp [walkPair, rowOrder, List.length_flatMap, Nat.mul_comm]

theorem visitFrom_negative {n fuel : Nat} {xr : Int} (h : xr < 0) (upward : Bool) : visitFrom n fuel xr upward = [] := by
  cases fuel with
  | zero => rfl
  | succ fuel => rw [visitFrom, if_pos h]

/-- A round of R142 from a right column other than 6. -/
theorem length_visitFrom_succ {xr : Int} (h0 : 0 ≤ xr) (h6 : xr ≠ 6) (n fuel : Nat) (upward : Bool) :
    (visitFrom n (fuel + 1) xr upward).length = 2 * n + (visitFrom n fuel (xr - 2) (!upward)).length := by
  rw [visitFrom, if_neg (by omega)]
  simp only [if_neg h6, List.length_append, length_walkPair]

/-- Left of column 6 the right columns are odd: `j` pairs from column 2j − 1 on. -/
theorem length_visitFrom_odd (n j : Nat) : ∀ {fuel : Nat} (upward : Bool), j ≤ fuel →
    (visitFrom n fuel (2 * j - 1) upward).length = 2 * n * j := by
  induction j with
  | zero => exact fun upward _ => by rw [visitFrom_negative (by omega)]; rfl
  | succ j ih =>
    intro fuel upward hfuel
    obtain ⟨fuel, rfl⟩ := Nat.exists_eq_add_one_of_ne_zero (Nat.ne_zero_of_lt hfuel)
    have hx : (2 * (j + 1 : Nat) - 1 : Int) - 2 = 2 * j - 1 := by omega
    rw [length_visitFrom_succ (by omega) (by omega), hx, ih _ (Nat.le_of_succ_le_succ hfuel)]
    ring

/-- From column 6 on the right columns are even: `k` pairs from column 2k on, since column 6 gives way to column 5. -/
theorem length_visitFrom_even (n k : Nat) (hk : 3 ≤ k) : ∀ {fuel : Nat} (upward : Bool), k ≤ fuel →
    (visitFrom n fuel (2 * k) upward).length = 2 * n * k := by
  induction k, hk using Nat.le_induction with
  | base =>
    intro fuel upward hfuel
    obtain ⟨fuel, rfl⟩ := Nat.exists_eq_add_one_of_ne_zero (Nat.ne_zero_of_lt hfuel)
    have hsix : visitFrom n (fuel + 1) (2 * (3 : Nat)) upward = visitFrom n (fuel + 1) (2 * (3 : Nat) - 1) upward := rfl
    rw [hsix, length_visitFrom_odd n 3 upward hfuel]
  | succ k hk ih =>
    intro fuel upward hfuel
    obtain ⟨fuel, rfl⟩ := Nat.exists_eq_add_one_of_ne_zero (Nat.ne_zero_of_lt hfuel)
    have hx : (2 * (k + 1 : Nat) : Int) - 2 = 2 * k := by omega
    rw [length_visitFrom_succ (by omega) (by omega), hx, ih _ (Nat.le_of_succ_le_succ hfuel)]
    ring

/-- R142: an odd size of at least 7 is walked in (N − 1)/2 column pairs, so N·(N−1) coordinates. -/
theorem length_visitOrder {k : Nat} (hk : 3 ≤ k) : (visitOrder (2 * k + 1)).length = (2 * k + 1) * (2 * k) := by
  have hx : ((2 * k + 1 : Nat) : Int) - 1 = 2 * k := by omega
  rw [visitOrder, hx, length_visitFrom_even _ k hk _ (by omega)]
  ring

theorem length_visitOrder_symbolSize (v : BitVec 6) (hv : 1 ≤ v.toNat) :
    (visitOrder (symbolSize v)).length = (4 * v.toNat + 17) * (4 * v.toNat + 16) := by
  have hsize : symbolSize v = 2 * (2 * v.toNat + 8) + 1 := by simp only [symbolSize]; omega
  rw [hsize, length_visitOrder (by omega)]
  ring

/-! ### What each command writes stays inside the windows -/

theorem MemoryLegal.deal {m : Memory} (h : MemoryLegal m) {nb : Nat} {target base : Nat → Nat} {seg : List Codeword}
    (hpos : 0 < nb) (hnb : nb ≤ 128) (hfit : ∀ k, k < nb → base k + target k ≤ 256)
    (hroom : seg.length ≤ ∑ k ∈ Finset.range nb, target k) : MemoryLegal (deal nb target base seg m) := by
  refine List.foldlRecOn _ _ h fun m hm e he => ?_
  obtain ⟨hk, hj⟩ := dealOrder_below_target hpos hroom e.1 (List.of_mem_zip he).1
  have := hfit e.1.1 hk
  exact hm.writeBlk (by omega) (by omega) _

theorem MemoryLegal.dealSegments {m : Memory} (h : MemoryLegal m) {g : Geometry} (hg : g.Fits) (d : Nat) :
    MemoryLegal (dealSegments g d m) := by
  have hlen : ∀ k, k < g.blocks → g.dataLen k + g.ec ≤ 255 := hg.blockLen_le
  refine (h.deal hg.blocks_pos hg.blocks_le (fun k hk => ?_) ?_).deal hg.blocks_pos hg.blocks_le (fun k hk => ?_) ?_
  · have := hlen k hk
    omega
  · simp [g.sum_dataLen]
  · have := hlen k hk
    omega
  · simp [Geometry.ecTotal]

theorem length_syndromes (msg : List Elem) (t : Nat) : (syndromes msg t).length = t := by simp [syndromes]

theorem MemoryLegal.storeSyndromes {m : Memory} (h : MemoryLegal m) {synd : List Elem} (hs : synd.length ≤ 256) :
    MemoryLegal (storeSyndromes m synd) :=
  h.writeEntries (by simpa [windowSize] using hs)

theorem MemoryLegal.storeCorrected {m : Memory} (h : MemoryLegal m) {k : Nat} (hk : k < 128) {pos : List Nat}
    (hp : ∀ p ∈ pos, p < 256) (out : List Elem) : MemoryLegal (storeCorrected m k pos out) :=
  List.foldlRecOn _ _ h fun _ hm p hmem => hm.writeBlk hk (hp p hmem) _

theorem MemoryLegal.correctBlock {m : Memory} (h : MemoryLegal m) {k t : Nat} (hk : k < 128) (ht : t ≤ 256) {pos : List Nat}
    (hp : ∀ p ∈ pos, p < 256) (d n : Nat) : MemoryLegal (correctBlock d m k n t pos).mem := by
  have hstatus : ∀ v, MemoryLegal (Machine.writeEntry (Machine.storeSyndromes m (syndromes (blockMessage d m k n) t)) .bstat k v) :=
    (h.storeSyndromes (by rwa [length_syndromes])).writeEntry hk
  rcases correctBlock_cases d m k n t pos with ⟨-, -, hmem⟩ | ⟨out, -, -, hmem⟩
  · exact hmem ▸ hstatus _
  · exact hmem ▸ (hstatus _).storeCorrected hk hp out

theorem lt_of_mem_flaggedErasures {d k n p : Nat} {m : Memory} (h : p ∈ flaggedErasures d m k n) : p < n :=
  List.mem_range.1 (List.mem_of_mem_filter h)

/-- R244: an erasure list that is not refused names positions of the block. -/
theorem lt_of_mem_erasureList {auto : Bool} {k n : Nat} {s : State} {pos : List Nat} (h : erasureList auto k n s = some pos) :
    ∀ p ∈ pos, p < n := by
  unfold erasureList at h
  split at h
  · obtain rfl := Option.some.inj h
    exact fun p hp => lt_of_mem_flaggedErasures hp
  · split at h
    · cases h
    · dsimp only at h
      split at h
      · cases h
      · rename_i hin
        obtain rfl := Option.some.inj h
        simpa using hin

/-- The loop of R253 over blocks of the geometry: memory stays legal, and at most one failure is counted for each. -/
theorem correctNext_foldl {g : Geometry} (hg : g.Fits) (d : Nat) {ks : List Nat} (hks : ∀ k ∈ ks, k < g.blocks)
    {a : AllBlocks} (h : MemoryLegal a.mem) :
    MemoryLegal (ks.foldl (correctNext d g) a).mem ∧ (ks.foldl (correctNext d g) a).fails ≤ a.fails + ks.length := by
  induction ks generalizing a with
  | nil => exact ⟨h, Nat.le_refl _⟩
  | cons k ks ih =>
    have hk := hks k (List.mem_cons_self ..)
    have hround : MemoryLegal (correctNext d g a k).mem :=
      h.correctBlock (lt_of_lt_of_le hk hg.blocks_le) (by have := hg.ec_le; omega)
        (fun p hp => by have := lt_of_mem_flaggedErasures hp; have := hg.blockLen_le k hk; omega) _ _
    have hfails : (correctNext d g a k).fails ≤ a.fails + 1 := by
      simp only [correctNext]
      split <;> omega
    obtain ⟨hmem, hle⟩ := ih (fun j hj => hks j (List.mem_cons_of_mem _ hj)) hround
    exact ⟨hmem, by simp only [List.foldl_cons, List.length_cons]; omega⟩

theorem MemoryLegal.correctBlocks {m : Memory} (h : MemoryLegal m) {g : Geometry} (hg : g.Fits) (d : Nat) :
    MemoryLegal (correctBlocks d g m).mem ∧ (correctBlocks d g m).fails ≤ g.blocks := by
  simpa [Machine.correctBlocks] using correctNext_foldl hg d (ks := List.range g.blocks)
    (a := { mem := m, fails := 0, anyNz := false }) (by simp) h

/-! ### The invariant under the updates of State and under a host transaction -/

/-- The address map names entries of the windows only (20_memory.md R83). -/
theorem lt_windowSize_of_target {addr : Addr} {w : Window} {i : Nat} (ht : target addr = .entry w i) : i < windowSize w := by
  unfold target at ht
  dsimp only at ht
  split at ht
  · cases ht
  · split at ht
    · rename_i hw
      obtain ⟨rfl, rfl⟩ := Target.entry.inj ht
      obtain ⟨hlo, hhi⟩ := windowAt_eq_some_iff.1 hw
      omega
    · cases ht

/-- What the invariant says of TRACE_COUNT (10_state.md R39). -/
def TraceCountLegal (c : BitVec 16) : Prop :=
  c = 0 ∨ ∃ v, 1 ≤ v ∧ v ≤ 40 ∧ c.toNat = (4 * v + 17) * (4 * v + 16)

section
variable {s : State} (h : Inv s)
include h

theorem Inv.setStatus {st : Status} (hst : ¬ (st.busy = true ∧ st.done = true)) : Inv (s.setStatus st) :=
  { h with busyOrDone := hst }

theorem Inv.setMem {m : Memory} (hm : MemoryLegal m) : Inv (s.setMem m) :=
  { h with memSorted := hm.sorted, memLegal := hm.legal, memWhole := hm.whole }

theorem Inv.setRegs {r : Regs} (ht : TraceCountLegal r.traceCount) (hf : r.failCount.toNat ≤ 128) : Inv (s.setRegs r) :=
  { h with traceLegal := ht, failsLegal := hf }

/-- Only TRACE_COUNT and FAIL_COUNT matter among the registers. -/
theorem Inv.setOtherRegs {r : Regs} (ht : r.traceCount = s.regs.traceCount) (hf : r.failCount = s.regs.failCount) :
    Inv (s.setRegs r) :=
  h.setRegs (ht ▸ h.traceLegal) (hf ▸ h.failsLegal)

theorem Inv.setFailCount {c : BitVec 8} (hc : c.toNat ≤ 128) : Inv (s.setRegs { s.regs with failCount := c }) :=
  h.setRegs (r := { s.regs with failCount := c }) h.traceLegal hc

theorem Inv.setPending (w : Word) : Inv (s.setPending w) := { h with }

theorem Inv.setInputs (l : List Move) : Inv (s.setInputs l) := { h with }

theorem Inv.setDraws (d : Nat) : Inv (s.setDraws d) := { h with }

theorem Inv.pushRead (v : Word) : Inv (s.pushRead v) := { h with }

theorem Inv.setGfR (v : Elem) : Inv (s.setGfR v) := h.setOtherRegs rfl rfl

theorem Inv.setSyndNz (b : Bool) : Inv (s.setSyndNz b) := h.setStatus h.busyOrDone

theorem Inv.setBusErr : Inv s.setBusErr := h.setStatus h.busyOrDone

theorem Inv.acceptCommand (v : Word) : Inv (acceptCommand v s) :=
  ((h.setOtherRegs (r := { s.regs with cmdLast := v }) rfl rfl).setPending v).setStatus (st := statusAccept s.status) (by simp)

theorem Inv.completion (code : ErrCode) : Inv (completion code s) :=
  ((h.setStatus (by simp)).setPending _).setDraws _

theorem Inv.writeReg (v : Word) (r : Reg) : Inv (writeReg s v r) := by
  cases r with
  | ctrl | version | ecLevel | maskId | bitCount | eraseCount | gfA | gfB => exact h.setOtherRegs rfl rfl
  | status =>
    refine h.setStatus fun ⟨hbusy, hdone⟩ => h.busyOrDone ⟨hbusy, ?_⟩
    exact (Bool.and_eq_true_iff.1 hdone).1
  | cmd => exact h.acceptCommand v
  | id | traceCount | gfR | failCount | geom | group0 | group1 | totals => exact h

theorem Inv.portRead (addr : Addr) (be : BitVec 4) : Inv (portRead s addr be) := by
  have hread := (h.pushRead (readValue s addr be)).setDraws (s.draws + 1)
  unfold Machine.portRead
  dsimp only
  split
  · exact hread.setBusErr
  · exact hread

theorem Inv.portWrite (addr : Addr) (be : BitVec 4) (v : Word) : Inv (portWrite s addr be v) := by
  unfold Machine.portWrite
  split
  · exact h.setBusErr
  · split
    · exact h.writeReg v _
    · rename_i htarget
      split
      · exact h.setMem (h.memoryLegal.writeEntry (lt_windowSize_of_target htarget) v)
      · exact h
    · exact h

theorem Inv.portStep (t : Transaction) : Inv (portStep t s) := by
  cases t with
  | read addr be    => exact h.portRead addr be
  | write addr be v => exact h.portWrite addr be v

end

/-! ### Every command completes, and keeps the invariant -/

/-- `r` answers a completion, and what was done from `s` on until then keeps the invariant. -/
def CompletesKeepingInv (s : State) (r : Result) : Prop := ∃ code u, r = .next (completion code u) ∧ (Inv s → Inv u)

theorem CompletesKeepingInv.inv {s t : State} {r : Result} (hr : CompletesKeepingInv s r) (h : Inv s) (ht : r = .next t) :
    Inv t := by
  obtain ⟨code, u, hu, hinv⟩ := hr
  obtain rfl : completion code u = t := by simpa [hu] using ht
  exact (hinv h).completion code

/-- An error raised before any effect (60_exceptions.md R293). -/
theorem completesKeepingInv_raise (code : ErrCode) (s : State) : CompletesKeepingInv s (.next (completion code s)) :=
  ⟨code, s, rfl, id⟩

theorem completesKeepingInv_setGfR (v : Elem) (s : State) : CompletesKeepingInv s (complete (s.setGfR v)) :=
  ⟨.none, _, rfl, fun h => h.setGfR v⟩

theorem fieldResult_completesKeepingInv (code : ErrCode) (r : Option Elem) (s : State) :
    CompletesKeepingInv s (fieldResult code r s) := by
  rcases fieldResult_cases code r s with ⟨-, h⟩ | ⟨v, -, h⟩
  · exact h ▸ completesKeepingInv_raise code s
  · exact h ▸ completesKeepingInv_setGfR v s

theorem execReset_completesKeepingInv (s : State) : CompletesKeepingInv s (execReset s) :=
  ⟨.none, _, rfl, fun h => (h.setRegs (.inl rfl) (by decide)).setStatus (by decide)⟩

theorem execPolyEval_completesKeepingInv (k : BitVec 8) (s : State) : CompletesKeepingInv s (execPolyEval k s) :=
  withBlock_elim (fun _ => completesKeepingInv_raise ..) (fun _ _ _ => completesKeepingInv_raise ..)
    fun _ _ _ => completesKeepingInv_setGfR ..

theorem execDeinterleave_completesKeepingInv (s : State) : CompletesKeepingInv s (execDeinterleave s) := by
  refine withGeometry_elim (fun _ => completesKeepingInv_raise ..) fun g hg => ?_
  dsimp only
  split
  · exact completesKeepingInv_raise ..
  · split
    · exact completesKeepingInv_raise ..
    · exact ⟨.none, _, rfl, fun h => h.setMem (h.memoryLegal.dealSegments (geometry_fits h.tableLegal hg) _)⟩

theorem execSyndrome_completesKeepingInv (k : BitVec 8) (s : State) : CompletesKeepingInv s (execSyndrome k s) := by
  refine withBlock_elim (fun _ => completesKeepingInv_raise ..) (fun _ _ _ => completesKeepingInv_raise ..) fun g hg _ => ?_
  refine ⟨.none, _, rfl, fun h => (h.setMem (h.memoryLegal.storeSyndromes ?_)).setSyndNz _⟩
  have := (geometry_fits h.tableLegal hg).ec_le
  rw [length_syndromes]
  omega

/-- What the correction of a block of the geometry leaves keeps the invariant (43_reed_solomon.md R252). -/
theorem Inv.correctBlock {s : State} (h : Inv s) {g : Geometry} (hg : geometry s = some g) {k : Nat} (hk : k < g.blocks)
    {pos : List Nat} (hpos : ∀ p ∈ pos, p < g.blockLen k) (snz : Bool) :
    Inv ((s.setMem (correctBlock s.draws s.mem k (g.blockLen k) g.ec pos).mem).setSyndNz snz) := by
  have hfits := geometry_fits h.tableLegal hg
  have hec := hfits.ec_le
  have hlen := hfits.blockLen_le k hk
  refine (h.setMem (h.memoryLegal.correctBlock (lt_of_lt_of_le hk hfits.blocks_le) (by omega) (fun p hp => ?_) _ _)).setSyndNz _
  have := hpos p hp
  omega

theorem execCorrect_completesKeepingInv (k : BitVec 8) (auto : Bool) (s : State) :
    CompletesKeepingInv s (execCorrect k auto s) := by
  refine withBlock_elim (fun _ => completesKeepingInv_raise ..) (fun _ _ _ => completesKeepingInv_raise ..) fun g hg hk => ?_
  cases hpos : erasureList auto k.toNat (g.blockLen k.toNat) s with
  | none => exact completesKeepingInv_raise ..
  | some pos =>
    have hinv (h : Inv s) := h.correctBlock hg hk (lt_of_mem_erasureList hpos)
    dsimp only
    split
    · exact ⟨.uncorrectable, _, rfl, fun h => hinv h _⟩
    · exact ⟨.none, _, rfl, fun h => hinv h _⟩

/-- What the loop of R253 leaves keeps the invariant: FAIL_COUNT is at most the number of blocks. -/
theorem Inv.correctBlocks {s : State} (h : Inv s) {g : Geometry} (hg : geometry s = some g) (snz : Bool) :
    Inv (((s.setMem (correctBlocks s.draws g s.mem).mem).setRegs
      { s.regs with failCount := BitVec.ofNat 8 (correctBlocks s.draws g s.mem).fails }).setSyndNz snz) := by
  have hfits := geometry_fits h.tableLegal hg
  obtain ⟨hmem, hfails⟩ := h.memoryLegal.correctBlocks hfits s.draws
  have hcount : (BitVec.ofNat 8 (Machine.correctBlocks s.draws g s.mem).fails).toNat ≤ 128 := by
    have := hfits.blocks_le
    rw [BitVec.toNat_ofNat, Nat.mod_eq_of_lt (by omega)]
    omega
  exact ((h.setMem hmem).setFailCount hcount).setSyndNz snz

theorem execCorrectAll_completesKeepingInv (s : State) : CompletesKeepingInv s (execCorrectAll s) := by
  refine withGeometry_elim (fun _ => completesKeepingInv_raise ..) fun g hg => ?_
  dsimp only
  split
  · exact ⟨.none, _, rfl, fun h => h.correctBlocks hg _⟩
  · exact ⟨.uncorrectable, _, rfl, fun h => h.correctBlocks hg _⟩

theorem length_bitsOf_le (inverted : Nat → Nat → Bool) (cell : Nat → Nat → ModCell) (seq : List (Nat × Nat)) :
    (bitsOf inverted cell seq).length ≤ seq.length := by
  simpa [bitsOf] using List.length_filter_le _ seq

/-- What TRAVERSE writes at a valid version keeps the invariant (40_traversal.md R146). -/
theorem Inv.storeWalk {s : State} (h : Inv s) {v : Nat} (hv : 1 ≤ v ∧ v ≤ 40) {bits trace : List Word}
    (htrace : trace.length = (4 * v + 17) * (4 * v + 16)) (hbits : bits.length ≤ trace.length) :
    Inv (storeWalk bits trace s) := by
  have hcap : (4 * v + 17) * (4 * v + 16) ≤ (4 * 40 + 17) * (4 * 40 + 16) := Nat.mul_le_mul (by omega) (by omega)
  have hmem := (h.memoryLegal.writeEntries (w := .trace) (i := 0) (vs := trace) (by simp only [windowSize]; omega)).writeEntries
    (w := .bits) (i := 0) (vs := bits) (by simp only [windowSize]; omega)
  refine (h.setMem hmem).setRegs (.inr ⟨v, hv.1, hv.2, ?_⟩) h.failsLegal
  rw [BitVec.toNat_ofNat, Nat.mod_eq_of_lt (by omega), htrace]

theorem execTraverse_completesKeepingInv (s : State) : CompletesKeepingInv s (execTraverse s) := by
  refine withGeometry_elim (fun _ => completesKeepingInv_raise ..) fun g hg => ?_
  dsimp only
  split
  · exact completesKeepingInv_raise ..
  · obtain ⟨hversion, hsize, -⟩ := geometry_eq_some hg
    have hv := (versionOk_iff _).1 hversion
    refine ⟨.none, _, rfl, fun h => h.storeWalk hv ?_ ?_⟩
    · rw [traceOf, List.length_map, hsize, length_visitOrder_symbolSize _ hv.1]
    · rw [traceOf, List.length_map]
      exact length_bitsOf_le ..

/-- Every command, from every state, ends in a completion (60_exceptions.md R292) and keeps the invariant until then. -/
theorem exec_completesKeepingInv (i : Instr) (s : State) : CompletesKeepingInv s (exec i s) := by
  cases i with
  | nop            => exact completesKeepingInv_raise .none s
  | traverse       => exact execTraverse_completesKeepingInv s
  | deinterleave   => exact execDeinterleave_completesKeepingInv s
  | syndrome k     => exact execSyndrome_completesKeepingInv k s
  | correct k auto => exact execCorrect_completesKeepingInv k auto s
  | correctAll     => exact execCorrectAll_completesKeepingInv s
  | polyEval k     => exact execPolyEval_completesKeepingInv k s
  | gfAdd | gfMul | gfExp => exact completesKeepingInv_setGfR _ s
  | gfDiv | gfInv | gfPow | gfLog => exact fieldResult_completesKeepingInv _ _ s
  | reset          => exact execReset_completesKeepingInv s

theorem engineStep_completesKeepingInv (s : State) : CompletesKeepingInv s (engineStep s) := by
  unfold engineStep
  split
  · exact exec_completesKeepingInv _ s
  · exact completesKeepingInv_raise .badCmd s

/-! ### One step -/

/-- What a step with a legal table can do: a host transaction, the engine's step or nothing, from `s` with its next move taken
off the list. -/
theorem step_cases {s : State} (ht : VecTableLegal s.rom.vecTable) :
    ∃ l, (∃ t, step s = .next (portStep t (s.setInputs l))) ∨ step s = engineStep (s.setInputs l) ∨
      step s = .next (s.setInputs l) := by
  obtain ⟨l, hl⟩ := nextTurn_state s
  refine ⟨l, ?_⟩
  rw [step, if_pos ((vecTableOk_iff _).2 ht)]
  rcases hturn : nextTurn s with ⟨turn, s'⟩
  obtain rfl : s' = s.setInputs l := by rwa [hturn] at hl
  cases turn with
  | host t  => exact .inl ⟨t, rfl⟩
  | command => exact .inr (.inl rfl)
  | idle    => exact .inr (.inr rfl)

theorem step_refused {s : State} (ht : ¬ VecTableLegal s.rom.vecTable) : step s = .refused .badVecTable := by
  rw [step, if_neg (by rwa [vecTableOk_iff])]

theorem totalsAgree_iff (t : List VecEntry) (knownTotals : List Nat) :
    TotalsAgree t knownTotals ↔ ∀ i : Nat, t[i]?.map VecEntry.dataTotal = knownTotals[i]? := by
  simp [TotalsAgree, List.ext_getElem?_iff]

/-- Settles O7: with a legal table each of the three kinds of move answers a next state, and R181's equality of two lists is
their equality at every index. -/
theorem stepAnswersNextUnlessTableBroken : Obligations.StepAnswersNextUnlessTableBroken := by
  refine fun s => ⟨fun ht => ?_, step_refused, by rw [VecTableLegal, totalsAgree_iff]⟩
  obtain ⟨l, ⟨t, hstep⟩ | hstep | hstep⟩ := step_cases ht
  · exact ⟨_, hstep⟩
  · obtain ⟨code, u, hu, -⟩ := engineStep_completesKeepingInv (s.setInputs l)
    exact ⟨_, hstep.trans hu⟩
  · exact ⟨_, hstep⟩

/-- Settles O59: taking the move off the list keeps the invariant, and so does each kind of move. -/
theorem stepKeepsInvariant : Obligations.StepKeepsInvariant := by
  intro s t h hnext
  obtain ⟨l, ⟨transaction, hstep⟩ | hstep | hstep⟩ := step_cases h.tableLegal
  · obtain rfl := Host.Outcome.next.inj (hstep.symm.trans hnext)
    exact (h.setInputs l).portStep transaction
  · exact (engineStep_completesKeepingInv _).inv (h.setInputs l) (hstep.symm.trans hnext)
  · obtain rfl := Host.Outcome.next.inj (hstep.symm.trans hnext)
    exact h.setInputs l

end Sys2Proof.Machine

/-! # The state (10_state.md): what a command writes, the registers as the host sees them, and the geometry -/

namespace Sys2Proof.Machine

/-! ### What a command has done when it completes -/

/-- The commands that have GF_R as their result (10_state.md R60). -/
def WritesGfR (i : Instr) : Prop :=
  i ∈ [Instr.gfAdd, .gfMul, .gfDiv, .gfInv, .gfPow, .gfExp, .gfLog] ∨ ∃ k, i = .polyEval k

/-- `Effect s i u`: a command `i` that starts in `s` can come to its completion in `u`. -/
inductive Effect (s : State) : Instr → State → Prop where
  /-- NOP, and an error that leaves the state at acceptance (44_control.md R280, 60_exceptions.md R293). -/
  | unchanged (i : Instr) : Effect s i s
  /-- The result of a field command or POLY_EVAL (42_galois.md R213–R220). -/
  | result {i : Instr} (hi : WritesGfR i) (v : Elem) : Effect s i (s.setGfR v)
  /-- The walk of TRAVERSE (40_traversal.md R146). -/
  | walk {g : Geometry} (hg : geometry s = some g) (inverted : Nat → Nat → Bool) (cell : Nat → Nat → ModCell) :
      Effect s .traverse
        (storeWalk (bitsOf inverted cell (visitOrder g.size)) (traceOf cell (visitOrder g.size)) s)
  /-- The deal of DEINTERLEAVE (41_deinterleave.md R170). -/
  | deal {g : Geometry} (hg : geometry s = some g) : Effect s .deinterleave (s.setMem (dealSegments g s.draws s.mem))
  /-- The syndromes of SYNDROME (43_reed_solomon.md R241). -/
  | syndromes {g : Geometry} (hg : geometry s = some g) (k : BitVec 8) (msg : List Elem) (snz : Bool) :
      Effect s (.syndrome k) ((s.setMem (storeSyndromes s.mem (syndromes msg g.ec))).setSyndNz snz)
  /-- The correction of one block, failed or not (43_reed_solomon.md R252). -/
  | correction {g : Geometry} (hg : geometry s = some g) {k : BitVec 8} (hk : k.toNat < g.blocks) (auto : Bool)
      {pos : List Nat} (hpos : ∀ p ∈ pos, p < g.blockLen k.toNat) (snz : Bool) :
      Effect s (.correct k auto)
        ((s.setMem (correctBlock s.draws s.mem k.toNat (g.blockLen k.toNat) g.ec pos).mem).setSyndNz snz)
  /-- The correction of every block (43_reed_solomon.md R253). -/
  | corrections {g : Geometry} (hg : geometry s = some g) (fails : BitVec 8) (snz : Bool) :
      Effect s .correctAll
        (((s.setMem (correctBlocks s.draws g s.mem).mem).setRegs { s.regs with failCount := fails }).setSyndNz snz)
  /-- RESET (44_control.md R281). -/
  | reset : Effect s .reset ((s.setRegs Regs.reset).setStatus Status.reset)

/-- `r` answers the completion of a command `i` that started in `s` and has had one of its effects. -/
def CompletesWithEffect (i : Instr) (s : State) (r : Result) : Prop :=
  ∃ code u, r = .next (completion code u) ∧ Effect s i u

theorem completesWithEffect_raise (i : Instr) (code : ErrCode) (s : State) :
    CompletesWithEffect i s (.next (completion code s)) :=
  ⟨code, s, rfl, .unchanged i⟩

theorem completesWithEffect_setGfR {i : Instr} (hi : WritesGfR i) (v : Elem) (s : State) :
    CompletesWithEffect i s (complete (s.setGfR v)) :=
  ⟨.none, _, rfl, .result hi v⟩

theorem fieldResult_completesWithEffect {i : Instr} (hi : WritesGfR i) (code : ErrCode) (r : Option Elem) (s : State) :
    CompletesWithEffect i s (fieldResult code r s) := by
  rcases fieldResult_cases code r s with ⟨-, h⟩ | ⟨v, -, h⟩
  · exact h ▸ completesWithEffect_raise i code s
  · exact h ▸ completesWithEffect_setGfR hi v s

theorem execPolyEval_completesWithEffect (k : BitVec 8) (s : State) :
    CompletesWithEffect (.polyEval k) s (execPolyEval k s) :=
  withBlock_elim (fun _ => completesWithEffect_raise ..) (fun _ _ _ => completesWithEffect_raise ..)
    fun _ _ _ => completesWithEffect_setGfR (.inr ⟨k, rfl⟩) _ s

theorem execTraverse_completesWithEffect (s : State) : CompletesWithEffect .traverse s (execTraverse s) := by
  refine withGeometry_elim (fun _ => completesWithEffect_raise ..) fun g hg => ?_
  dsimp only
  split
  · exact completesWithEffect_raise ..
  · exact ⟨.none, _, rfl, .walk hg _ _⟩

theorem execDeinterleave_completesWithEffect (s : State) :
    CompletesWithEffect .deinterleave s (execDeinterleave s) := by
  refine withGeometry_elim (fun _ => completesWithEffect_raise ..) fun g hg => ?_
  dsimp only
  split
  · exact completesWithEffect_raise ..
  · split
    · exact completesWithEffect_raise ..
    · exact ⟨.none, _, rfl, .deal hg⟩

theorem execSyndrome_completesWithEffect (k : BitVec 8) (s : State) :
    CompletesWithEffect (.syndrome k) s (execSyndrome k s) :=
  withBlock_elim (fun _ => completesWithEffect_raise ..) (fun _ _ _ => completesWithEffect_raise ..)
    fun _ hg _ => ⟨.none, _, rfl, .syndromes hg k _ _⟩

theorem execCorrect_completesWithEffect (k : BitVec 8) (auto : Bool) (s : State) :
    CompletesWithEffect (.correct k auto) s (execCorrect k auto s) := by
  refine withBlock_elim (fun _ => completesWithEffect_raise ..) (fun _ _ _ => completesWithEffect_raise ..) fun g hg hk => ?_
  cases hpos : erasureList auto k.toNat (g.blockLen k.toNat) s with
  | none => exact completesWithEffect_raise ..
  | some pos =>
    have heffect := Effect.correction hg hk auto (lt_of_mem_erasureList hpos)
    dsimp only
    split
    · exact ⟨.uncorrectable, _, rfl, heffect _⟩
    · exact ⟨.none, _, rfl, heffect _⟩

theorem execCorrectAll_completesWithEffect (s : State) : CompletesWithEffect .correctAll s (execCorrectAll s) := by
  refine withGeometry_elim (fun _ => completesWithEffect_raise ..) fun g hg => ?_
  dsimp only
  split
  · exact ⟨.none, _, rfl, .corrections hg _ _⟩
  · exact ⟨.uncorrectable, _, rfl, .corrections hg _ _⟩

/-- Every command, from every state, completes with one of its effects. -/
theorem exec_completesWithEffect (i : Instr) (s : State) : CompletesWithEffect i s (exec i s) := by
  cases i with
  | nop            => exact completesWithEffect_raise .nop .none s
  | traverse       => exact execTraverse_completesWithEffect s
  | deinterleave   => exact execDeinterleave_completesWithEffect s
  | syndrome k     => exact execSyndrome_completesWithEffect k s
  | correct k auto => exact execCorrect_completesWithEffect k auto s
  | correctAll     => exact execCorrectAll_completesWithEffect s
  | polyEval k     => exact execPolyEval_completesWithEffect k s
  | gfAdd | gfMul | gfExp => exact completesWithEffect_setGfR (.inl (by decide)) _ s
  | gfDiv | gfInv | gfPow | gfLog => exact fieldResult_completesWithEffect (.inl (by decide)) _ _ s
  | reset          => exact ⟨.none, _, rfl, .reset⟩

theorem effect_of_exec {i : Instr} {s t : State} (h : exec i s = .next t) :
    ∃ code u, t = completion code u ∧ Effect s i u := by
  obtain ⟨code, u, hu, heffect⟩ := exec_completesWithEffect i s
  exact ⟨code, u, Host.Outcome.next.inj (h.symm.trans hu), heffect⟩

/-- Settles O46, effect by effect: the completion itself writes no register but STATUS, and in STATUS not SYND_NZ. -/
theorem commandsWriteOnlyTheirRegisters : Obligations.CommandsWriteOnlyTheirRegisters := by
  intro i s t hreset hexec
  obtain ⟨code, u, rfl, heffect⟩ := effect_of_exec hexec
  cases heffect with
  | unchanged | deal | syndromes | correction | corrections => simp
  | result hi v => simpa [WritesGfR] using fun _ => hi
  | walk => simp [storeWalk]
  | reset => exact absurd rfl hreset

/-! ### Which windows a write of memory can change -/

/-- From `m` to `m'` only bytes of the windows in `W` have changed. -/
def WritesOnly (W : Window → Prop) (m m' : Memory) : Prop :=
  SameOutside (fun a => ∃ w, inEntries w 0 (windowSize w) a ∧ W w) m m'

theorem WritesOnly.refl (W : Window → Prop) (m : Memory) : WritesOnly W m m := fun _ _ => rfl

section
variable {W : Window → Prop} {m m' : Memory} (h : WritesOnly W m m')
include h

theorem WritesOnly.writeEntry {w : Window} (hw : W w) {i : Nat} (hi : i < windowSize w) (v : Word) :
    WritesOnly W m (writeEntry m' w i v) := by
  intro a ha
  rw [getByte_writeEntry_outside, h a ha]
  by_contra hin
  exact ha ⟨w, by simp only [inEntries, entryAddr] at *; omega, hw⟩

theorem WritesOnly.writeBlk (hw : W .blk) {k j : Nat} (hk : k < 128) (hj : j < 256) (v : Word) :
    WritesOnly W m (Machine.writeEntry m' .blk (blkIndex k j) v) :=
  h.writeEntry hw (by simp only [blkIndex, windowSize]; omega) v

theorem WritesOnly.writeEntries {w : Window} (hw : W w) {i : Nat} {vs : List Word} (hi : i + vs.length ≤ windowSize w) :
    WritesOnly W m (writeEntries m' w i vs) := by
  induction vs generalizing m' i with
  | nil => exact h
  | cons v vs ih =>
    simp only [List.length_cons] at hi
    exact ih (h.writeEntry hw (by omega) v) (by omega)

theorem WritesOnly.deal (hw : W .blk) {nb : Nat} {target base : Nat → Nat} {seg : List Codeword}
    (hpos : 0 < nb) (hnb : nb ≤ 128) (hfit : ∀ k, k < nb → base k + target k ≤ 256)
    (hroom : seg.length ≤ ∑ k ∈ Finset.range nb, target k) : WritesOnly W m (deal nb target base seg m') := by
  refine List.foldlRecOn _ _ h fun _ hm e he => ?_
  obtain ⟨hk, hj⟩ := dealOrder_below_target hpos hroom e.1 (List.of_mem_zip he).1
  have := hfit e.1.1 hk
  exact hm.writeBlk hw (by omega) (by omega) _

theorem WritesOnly.dealSegments (hw : W .blk) {g : Geometry} (hg : g.Fits) (d : Nat) :
    WritesOnly W m (dealSegments g d m') := by
  have hlen : ∀ k, k < g.blocks → g.dataLen k + g.ec ≤ 255 := hg.blockLen_le
  refine (h.deal hw hg.blocks_pos hg.blocks_le (fun k hk => ?_) ?_).deal hw hg.blocks_pos hg.blocks_le (fun k hk => ?_) ?_
  · have := hlen k hk
    omega
  · simp [g.sum_dataLen]
  · have := hlen k hk
    omega
  · simp [Geometry.ecTotal]

theorem WritesOnly.storeSyndromes (hw : W .synd) {msg : List Elem} {t : Nat} (ht : t ≤ 256) :
    WritesOnly W m (storeSyndromes m' (syndromes msg t)) :=
  h.writeEntries hw (by simpa [windowSize, length_syndromes] using ht)

theorem WritesOnly.storeCorrected (hw : W .blk) {k : Nat} (hk : k < 128) {pos : List Nat} (hp : ∀ p ∈ pos, p < 256)
    (out : List Elem) : WritesOnly W m (storeCorrected m' k pos out) :=
  List.foldlRecOn _ _ h fun _ hm p hmem => hm.writeBlk hw hk (hp p hmem) _

end

/-- The windows that CORRECT and CORRECT_ALL write (10_state.md R54, R55, R58). -/
def CorrectionWindow (w : Window) : Prop := w = .synd ∨ w = .bstat ∨ w = .blk

theorem WritesOnly.correctBlock {m m' : Memory} (h : WritesOnly CorrectionWindow m m') {g : Geometry} (hg : g.Fits)
    {k : Nat} (hk : k < g.blocks) {pos : List Nat} (hpos : ∀ p ∈ pos, p < g.blockLen k) (d : Nat) :
    WritesOnly CorrectionWindow m (correctBlock d m' k (g.blockLen k) g.ec pos).mem := by
  have hk128 := lt_of_lt_of_le hk hg.blocks_le
  have hlen := hg.blockLen_le k hk
  have hsynd := h.storeSyndromes (msg := blockMessage d m' k (g.blockLen k)) (.inl rfl) (hg.ec_le.trans (by decide))
  have hstatus := hsynd.writeEntry (w := .bstat) (.inr (.inl rfl)) hk128
  rcases correctBlock_cases d m' k (g.blockLen k) g.ec pos with ⟨-, -, hmem⟩ | ⟨out, -, -, hmem⟩
  · exact hmem ▸ hstatus _
  · exact hmem ▸ (hstatus _).storeCorrected (.inr (.inr rfl)) hk128 (fun p hp => by have := hpos p hp; omega) out

theorem WritesOnly.correctBlocks (m : Memory) {g : Geometry} (hg : g.Fits) (d : Nat) :
    WritesOnly CorrectionWindow m (correctBlocks d g m).mem :=
  List.foldlRecOn (motive := fun a : AllBlocks => WritesOnly CorrectionWindow m a.mem) _ _ (.refl _ m) fun _ ha _ hk =>
    ha.correctBlock hg (List.mem_range.1 hk) (fun _ hp => lt_of_mem_flaggedErasures hp) d

/-- The bounds of R9 need no more of VEC_TABLE than R9: the geometry is that of the same entries with their own totals. -/
theorem geometry_fits_of_wf {s : State} {g : Geometry} (ht : VecTableWf (vecEntries s.rom.vecTable))
    (hg : geometry s = some g) : g.Fits :=
  geometry_fits
    (s := { s with rom.vecTable := .custom (vecEntries s.rom.vecTable) ((vecEntries s.rom.vecTable).map VecEntry.dataTotal) })
    ⟨ht, rfl⟩ hg

/-- The longest walk, N·(N−1) at version 40, fits in TRACE memory and in BITS memory. -/
theorem length_visitOrder_le {s : State} {g : Geometry} (hg : geometry s = some g) : (visitOrder g.size).length ≤ 32768 := by
  obtain ⟨hversion, hsize, -⟩ := geometry_eq_some hg
  have hv := (versionOk_iff _).1 hversion
  rw [hsize, length_visitOrder_symbolSize _ hv.1]
  exact (Nat.mul_le_mul (by omega) (by omega)).trans (show (4 * 40 + 17) * (4 * 40 + 16) ≤ 32768 by decide)

theorem WritesOnly.storeWalk (s : State) {bits trace : List Word} (hbits : bits.length ≤ 32768)
    (htrace : trace.length ≤ 32768) : WritesOnly (fun w => w = .bits ∨ w = .trace) s.mem (storeWalk bits trace s).mem :=
  ((WritesOnly.refl _ s.mem).writeEntries (.inr rfl) (by simpa [windowSize] using htrace)).writeEntries (.inl rfl)
    (by simpa [windowSize] using hbits)

/-- Settles O45, effect by effect: the bounds of R9 keep every entry that a command writes inside its window. -/
theorem commandsWriteOnlyTheirMemories : Obligations.CommandsWriteOnlyTheirMemories := by
  intro i s t htable hexec
  obtain ⟨code, u, rfl, heffect⟩ := effect_of_exec hexec
  have fits {g : Geometry} (hg : geometry s = some g) : g.Fits := geometry_fits_of_wf htable hg
  cases heffect with
  | unchanged | result | reset => exact WritesOnly.refl _ s.mem
  | walk hg inverted cell =>
    have hlen := length_visitOrder_le hg
    exact WritesOnly.storeWalk s ((length_bitsOf_le ..).trans hlen) (by simpa [traceOf] using hlen)
  | deal hg => exact (WritesOnly.refl (· = .blk) s.mem).dealSegments rfl (fits hg) s.draws
  | syndromes hg => exact (WritesOnly.refl (· = .synd) s.mem).storeSyndromes rfl ((fits hg).ec_le.trans (by decide))
  | correction hg hk auto hpos => exact (WritesOnly.refl _ s.mem).correctBlock (fits hg) hk hpos s.draws
  | corrections hg => exact WritesOnly.correctBlocks s.mem (fits hg) s.draws

/-! ### A register at its offset, as the host reads and writes it (20_memory.md R83, R86) -/

theorem target_regOffset (r : Reg) : target (regOffset r) = .reg r := by
  cases r <;> decide

theorem wholeWord_regOffset (r : Reg) : wholeWord (regOffset r) 0xF = true := by
  cases r <;> decide

theorem readRefused_regOffset (r : Reg) : readRefused (regOffset r) 0xF = false := by
  rw [readRefused, wholeWord_regOffset, target_regOffset]
  rfl

theorem writeRefused_regOffset (s : State) (r : Reg) :
    writeRefused s (regOffset r) 0xF = (s.status.busy && !writableBusy r) := by
  rw [writeRefused, wholeWord_regOffset, target_regOffset]
  rfl

theorem portWrite_regOffset {s : State} {r : Reg} (h : s.status.busy = false ∨ writableBusy r = true) (v : Word) :
    portWrite s (regOffset r) 0xF v = writeReg s v r := by
  rw [portWrite, writeRefused_regOffset, target_regOffset, if_neg]
  rcases h with h | h <;> simp [h]

theorem portWrite_regOffset_refused {s : State} {r : Reg} (h : s.status.busy = true) (hr : writableBusy r = false) (v : Word) :
    portWrite s (regOffset r) 0xF v = s.setBusErr := by
  rw [portWrite, writeRefused_regOffset, h, hr]
  rfl

theorem readValue_regOffset {s : State} {r : Reg} (h : s.status.busy = false ∨ readableBusy r = true) :
    readValue s (regOffset r) 0xF = readReg s r := by
  rw [readValue, readRefused_regOffset, target_regOffset, if_neg Bool.false_ne_true]
  dsimp only
  rw [if_neg]
  rcases h with h | h <;> simp [h]

theorem portRead_regOffset {s : State} {r : Reg} (h : s.status.busy = false ∨ readableBusy r = true) :
    portRead s (regOffset r) 0xF = (s.pushRead (readReg s r)).setDraws (s.draws + 1) := by
  rw [portRead, readRefused_regOffset, readValue_regOffset h]
  rfl

/-! ### The fields of a word -/

/-- The low bits of a word are the word under their mask. -/
theorem setWidth_setWidth_eq_and {n : Nat} (hn : n ≤ 32) (v : Word) :
    (v.setWidth n).setWidth 32 = v &&& BitVec.ofNat 32 (2 ^ n - 1) := by
  have hpow : 2 ^ n ≤ 2 ^ 32 := Nat.pow_le_pow_right (by decide) hn
  have hmask : (2 ^ n - 1) % 2 ^ 32 = 2 ^ n - 1 := Nat.mod_eq_of_lt (by omega)
  have hlow : v.toNat % 2 ^ n < 2 ^ 32 := (Nat.mod_lt _ (Nat.two_pow_pos n)).trans_le hpow
  apply BitVec.eq_of_toNat_eq
  rw [BitVec.toNat_setWidth, BitVec.toNat_setWidth, BitVec.toNat_and, BitVec.toNat_ofNat, hmask,
    Nat.and_two_pow_sub_one_eq_mod, Nat.mod_eq_of_lt hlow]

theorem bitAt_and (b : Bool) (n : Nat) (w : Word) : bitAt b n &&& w = bitAt (b && w.getLsbD n) n := by
  ext i hi
  by_cases hin : i = n
  · subst hin
    simp [bitAt, BitVec.getLsbD_eq_getElem hi]
  · have : i < n ∨ ¬ i - n = 0 := by omega
    rcases this with h | h <;> simp [bitAt, h]

theorem and_not_and_of_and_eq_zero {x m : Word} (h : x &&& m = 0) (v : Word) : x &&& ~~~(v &&& m) = x := by
  ext i hi
  have hbit : (x &&& m)[i] = false := by simp [h]
  rw [BitVec.getElem_and] at hbit
  rw [BitVec.getElem_and, BitVec.getElem_not, BitVec.getElem_and]
  grind

/-- A field placed above all bits of a word adds to it. -/
theorem toNat_or_field {x : Word} {k n : Nat} (u : BitVec k) (hk : k + n ≤ 32) (hx : x.toNat < 2 ^ n) :
    (x ||| u.setWidth 32 <<< n).toNat = x.toNat + u.toNat * 2 ^ n := by
  have hu : u.toNat * 2 ^ n < 2 ^ 32 :=
    calc u.toNat * 2 ^ n < 2 ^ k * 2 ^ n := Nat.mul_lt_mul_of_pos_right u.isLt (Nat.two_pow_pos n)
      _ = 2 ^ (k + n) := (Nat.pow_add ..).symm
      _ ≤ 2 ^ 32 := Nat.pow_le_pow_right (by decide) hk
  have hword : u.toNat < 2 ^ 32 := lt_of_le_of_lt (Nat.le_mul_of_pos_right _ (Nat.two_pow_pos n)) hu
  rw [BitVec.toNat_or, BitVec.toNat_shiftLeft, BitVec.toNat_setWidth, Nat.mod_eq_of_lt hword, Nat.shiftLeft_eq,
    Nat.mod_eq_of_lt hu, Nat.or_comm, Nat.mul_comm, ← Nat.two_pow_add_eq_or_of_lt hx, Nat.add_comm]

theorem toNat_or_bitAt {x : Word} {n : Nat} (b : Bool) (hn : 1 + n ≤ 32) (hx : x.toNat < 2 ^ n) :
    (x ||| bitAt b n).toNat = x.toNat + b.toNat * 2 ^ n := by
  rw [bitAt, toNat_or_field _ hn hx, BitVec.toNat_ofBool]

theorem toNat_or_fieldAt {x : Word} {k n a : Nat} (hk : k + n ≤ 32) (hx : x.toNat < 2 ^ n) (ha : a < 2 ^ k) :
    (x ||| fieldAt k n a).toNat = x.toNat + a * 2 ^ n := by
  rw [fieldAt, toNat_or_field _ hk hx, BitVec.toNat_ofNat, Nat.mod_eq_of_lt ha]

theorem toNat_fieldAt_zero {k a : Nat} (hk : k ≤ 32) (ha : a < 2 ^ k) : (fieldAt k 0 a).toNat = a := by
  simpa using toNat_or_fieldAt (x := 0) (n := 0) hk (by decide) ha

/-! ### STATUS and CMD (10_state.md R33, R34) -/

/-- The layout of STATUS (R33). -/
theorem toNat_statusWord (st : Status) :
    (statusWord st).toNat = st.busy.toNat + 2 * st.done.toNat + 4 * st.err.toNat + 8 * st.syndNz.toNat +
      16 * st.busErr.toNat + 256 * (errByte st.errCode).toNat := by
  have hbusy := st.busy.toNat_le
  have hdone := st.done.toNat_le
  have herr := st.err.toNat_le
  have hsyndNz := st.syndNz.toNat_le
  have hbusErr := st.busErr.toNat_le
  have h0 : (bitAt st.busy 0).toNat = st.busy.toNat := by
    simpa using toNat_or_bitAt (x := 0) (n := 0) st.busy (by decide) (by decide)
  have h1 := toNat_or_bitAt (x := bitAt st.busy 0) (n := 1) st.done (by decide) (by omega)
  have h2 := toNat_or_bitAt (n := 2) st.err (by decide) (by rw [h1]; omega)
  have h3 := toNat_or_bitAt (n := 3) st.syndNz (by decide) (by rw [h2]; omega)
  have h4 := toNat_or_bitAt (n := 4) st.busErr (by decide) (by rw [h3]; omega)
  rw [statusWord, toNat_or_field _ (by decide) (by rw [h4]; omega)]
  omega

/-- The W1C bits of STATUS, DONE, ERR and BUSERR, are those of the mask 0x16 (R33). -/
theorem statusWord_acknowledge (v : Word) (st : Status) :
    statusWord (statusAcknowledge v st) = statusWord st &&& ~~~(v &&& 0x00000016) := by
  have hcode : (errByte st.errCode).setWidth 32 <<< 8 &&& (0x00000016 : Word) = 0 := by cases st.errCode <;> decide
  simp only [statusWord, BitVec.and_or_distrib_right, bitAt_and, and_not_and_of_and_eq_zero hcode]
  simp

/-- Settles O52: STATUS is writable while BUSY = 1 too, so a write always acknowledges. -/
theorem statusLayoutAndAcknowledge : Obligations.StatusLayoutAndAcknowledge := fun s v =>
  ⟨toNat_statusWord s.status, statusAcknowledge v s.status, portWrite_regOffset (r := .status) (.inr rfl) v,
    statusWord_acknowledge v s.status⟩

theorem raisedError_completion (code : ErrCode) (s : State) : RaisedError code s (completion code s) where
  completed := ⟨rfl, rfl, rfl, rfl, rfl, rfl, rfl, rfl⟩
  syndNz := rfl
  regs := rfl
  mem := rfl

theorem engineStep_of_decode_error {s : State} {e : DecodeError} (h : decode s.pending = .error e) :
    engineStep s = .next (completion .badCmd s) := by
  rw [engineStep, fetchCommand, h]
  rfl

/-- Settles O47: CMD is readable but not writable while BUSY = 1. -/
theorem commandIssue : Obligations.CommandIssue := fun _ v =>
  ⟨fun hidle => portWrite_regOffset (r := .cmd) (.inl hidle) v,
    fun hbusy => portWrite_regOffset_refused (r := .cmd) hbusy rfl v,
    fun _ he => ⟨_, engineStep_of_decode_error he, raisedError_completion ..⟩,
    readValue_regOffset (r := .cmd) (.inr rfl), rfl⟩

/-! ### The other registers (10_state.md R51) -/

theorem writeReg_readOnly {r : Reg} (hr : r ∈ [Reg.id, .traceCount, .gfR, .failCount, .geom, .group0, .group1, .totals])
    (s : State) (v : Word) : writeReg s v r = s := by
  cases r with
  | id | traceCount | gfR | failCount | geom | group0 | group1 | totals => rfl
  | _ => exact absurd hr (by decide)

/-- A write of a register other than STATUS and CMD shows in that register and the views of the geometry only. -/
theorem readReg_writeReg_of_not_mem {r q : Reg} (hr : r ∉ [Reg.status, .cmd])
    (hq : q ∉ [r, Reg.geom, .group0, .group1, .totals]) (s : State) (v : Word) :
    readReg (writeReg s v r) q = readReg s q := by
  cases r with
  | status | cmd => exact absurd hr (by decide)
  | id | traceCount | gfR | failCount | geom | group0 | group1 | totals => rfl
  | ctrl | version | ecLevel | maskId | bitCount | eraseCount | gfA | gfB =>
    cases q <;> simp [writeReg, readReg] at hq ⊢

/-- A write of a read-write register changes no more of the state than the registers, and stores the defined bits. -/
theorem writeReg_stores (s : State) (v : Word) :
    ∀ e ∈ [(Reg.ctrl, (0x00000001 : Word)), (.version, 0x0000003F), (.ecLevel, 0x00000003), (.maskId, 0x00000007),
        (.bitCount, 0x0000FFFF), (.eraseCount, 0x000001FF), (.gfA, 0x000000FF), (.gfB, 0x0000FFFF)],
      e.1 ∉ [Reg.status, .cmd] ∧ (∃ r', writeReg s v e.1 = s.setRegs r') ∧
        readReg (writeReg s v e.1) e.1 = v &&& e.2 := by
  have hlow (n : Nat) (hn : n ≤ 32) := setWidth_setWidth_eq_and hn v
  have hbit : bitAt (v.getLsbD 0) 0 = v &&& 1 := by
    rw [BitVec.and_comm]
    exact (bitAt_and true 0 v).symm
  simp only [List.forall_mem_cons]
  refine ⟨⟨by decide, ⟨_, rfl⟩, hbit⟩,
    ⟨by decide, ⟨_, rfl⟩, hlow 6 (by decide)⟩,
    ⟨by decide, ⟨_, rfl⟩, hlow 2 (by decide)⟩,
    ⟨by decide, ⟨_, rfl⟩, hlow 3 (by decide)⟩,
    ⟨by decide, ⟨_, rfl⟩, hlow 16 (by decide)⟩,
    ⟨by decide, ⟨_, rfl⟩, hlow 9 (by decide)⟩,
    ⟨by decide, ⟨_, rfl⟩, hlow 8 (by decide)⟩,
    ⟨by decide, ⟨_, rfl⟩, hlow 16 (by decide)⟩, List.forall_mem_nil _⟩

/-- Settles O51: with BUSY = 0 a write at a register's offset is a write of that register, and a read is a read of it. -/
theorem registerAccess : Obligations.RegisterAccess := by
  intro s v hidle
  have hwrite (r : Reg) : portWrite s (regOffset r) 0xF v = writeReg s v r := portWrite_regOffset (.inl hidle) v
  refine ⟨fun r hr => (hwrite r).trans (writeReg_readOnly hr s v), fun e he => ?_,
    fun r => portRead_regOffset (.inl hidle), rfl⟩
  obtain ⟨hne, ⟨r', hr'⟩, hself⟩ := writeReg_stores s v e he
  rw [hwrite]
  exact ⟨r', hr', hself, fun q hq => readReg_writeReg_of_not_mem hne hq s v⟩

/-! ### The geometry and its views (10_state.md R45–R49) -/

theorem exists_geometry {s : State} (hv : versionOk s.regs.version = true) : ∃ g, geometry s = some g :=
  Option.ne_none_iff_exists'.1 fun hnone => Bool.noConfusion (hv.symm.trans (geometry_eq_none.1 hnone))

theorem getElem?_vecEntry {t : VecTable} (ht : VecTableWf (vecEntries t)) {v : BitVec 6} (hv : versionOk v = true)
    (l : BitVec 2) : (vecEntries t)[4 * (v.toNat - 1) + l.toNat]? = some (vecEntry t v l) := by
  have hv := (versionOk_iff v).1 hv
  have hi : 4 * (v.toNat - 1) + l.toNat < (vecEntries t).length := by rw [ht.1]; omega
  rw [vecEntry, List.getD_eq_getElem _ _ hi, List.getElem?_eq_getElem hi]

theorem VecEntry.dataTotal_eq_slots {e : VecEntry} (h : e.groupsFit) :
    e.dataTotal = (e.groups.getD 0 ⟨0, 0⟩).blockCount * (e.groups.getD 0 ⟨0, 0⟩).codewords +
      (e.groups.getD 1 ⟨0, 0⟩).blockCount * (e.groups.getD 1 ⟨0, 0⟩).codewords := by
  obtain ⟨ec, groups⟩ := e
  match groups, h with
  | [], _              => rfl
  | [_], _             => simp [VecEntry.dataTotal]
  | [_, _], _          => simp [VecEntry.dataTotal]
  | _ :: _ :: _ :: _, h => exact absurd h (by simp [VecEntry.groupsFit])

theorem VecEntry.one_le_slot_codewords {e : VecEntry} (h : e.lengthsFit) {i : Nat}
    (hb : 0 < (e.groups.getD i ⟨0, 0⟩).blockCount) : 1 ≤ (e.groups.getD i ⟨0, 0⟩).codewords := by
  by_cases hi : i < e.groups.length
  · rw [List.getD_eq_getElem _ _ hi] at hb ⊢
    exact (h _ (List.getElem_mem hi) hb).1
  · rw [List.getD_eq_default _ _ (by omega)] at hb
    exact absurd hb (by decide)

/-- The geometry has the quantities of its entry, and every block has a data codeword (00_scope.md R9, 10_state.md R49). -/
structure Geometry.Matches (g : Geometry) (e : VecEntry) : Prop where
  ec        : g.ec = e.ec
  blocks    : g.blocks = e.blocks
  dataTotal : g.dataTotal = e.dataTotal
  ecTotal   : g.ecTotal = e.ecTotal
  dataLen   : ∀ k, k < g.blocks → 1 ≤ g.dataLen k

theorem geometry_matches {s : State} {g : Geometry} (ht : VecTableWf (vecEntries s.rom.vecTable)) (hg : geometry s = some g) :
    g.Matches (vecEntry s.rom.vecTable s.regs.version s.regs.ecLevel) := by
  obtain ⟨hv, -, hec, hg0, hg1⟩ := geometry_eq_some hg
  obtain ⟨hgroups, -, hlengths, -⟩ := ht.2 _ (vecEntry_mem ht hv s.regs.ecLevel)
  have hblocks : g.blocks = (vecEntry s.rom.vecTable s.regs.version s.regs.ecLevel).blocks := by
    rw [VecEntry.blocks_eq_slots hgroups, Geometry.blocks, hg0, hg1]
  refine ⟨hec, hblocks, ?_, ?_, fun k hk => ?_⟩
  · rw [VecEntry.dataTotal_eq_slots hgroups, Geometry.dataTotal, hg0, hg1]
  · rw [Geometry.ecTotal, VecEntry.ecTotal, hblocks, hec]
  · rw [Geometry.blocks] at hk
    rw [Geometry.dataLen]
    split
    · rw [hg0]
      exact VecEntry.one_le_slot_codewords hlengths (by rw [← hg0]; omega)
    · rw [hg1]
      exact VecEntry.one_le_slot_codewords hlengths (by rw [← hg1]; omega)

theorem toNat_geomWord {s : State} {g : Geometry} (hg : geometry s = some g) (hn : g.size < 256) (hb : g.blocks < 256)
    (he : g.ec < 256) : (geomWord s).toNat = g.size + 256 * g.blocks + 65536 * g.ec := by
  have h0 := toNat_fieldAt_zero (k := 8) (by decide) hn
  have h1 := toNat_or_fieldAt (x := fieldAt 8 0 g.size) (k := 8) (n := 8) (by decide) (by omega) hb
  rw [geomWord, hg]
  dsimp only
  rw [toNat_or_fieldAt (by decide) (by omega) he]
  omega

theorem toNat_groupWord {g : Group} (hb : g.blockCount < 256) (hd : g.codewords < 256) :
    (groupWord g).toNat = g.blockCount + 256 * g.codewords := by
  have h0 := toNat_fieldAt_zero (k := 8) (by decide) hb
  rw [groupWord, toNat_or_field _ (by decide) (by omega), codewordsField, if_pos hd, BitVec.toNat_ofNat,
    Nat.mod_eq_of_lt hd]
  omega

theorem toNat_totalsWord {s : State} {g : Geometry} (hg : geometry s = some g) (hd : g.dataTotal < 65536)
    (he : g.ecTotal < 65536) : (totalsWord s).toNat = g.dataTotal + 65536 * g.ecTotal := by
  have h0 := toNat_fieldAt_zero (k := 16) (by decide) hd
  rw [totalsWord, hg]
  dsimp only
  rw [toNat_or_fieldAt (by decide) (by omega) he]
  omega

theorem readReg_view_of_geometry_eq_none {s : State} (h : geometry s = none) :
    ∀ r ∈ [Reg.geom, .group0, .group1, .totals], readReg s r = 0 := by
  simp [readReg, geomWord, group0Word, group1Word, totalsWord, h]

/-- The views read the geometry and nothing else. -/
theorem readReg_view_congr {s t : State} (h : geometry s = geometry t) :
    ∀ r ∈ [Reg.geom, .group0, .group1, .totals], readReg s r = readReg t r := by
  simp [readReg, geomWord, group0Word, group1Word, totalsWord, h]

/-- The reset state with the default table at version `v` and level `l`. -/
def isoState (v : BitVec 6) (l : BitVec 2) : State := State.reset.setRegs { Regs.reset with version := v, ecLevel := l }

theorem geometry_isoState {s : State} {v : BitVec 6} {l : BitVec 2} (ht : s.rom.vecTable = .iso) (hv : s.regs.version = v)
    (hl : s.regs.ecLevel = l) : geometry s = geometry (isoState v l) := by
  simp [geometry, isoState, State.reset, ht, hv, hl]

/-- Settles O55: R9 bounds every quantity by its field's width, and the default's printed views are evaluated. -/
theorem geometryViews : Obligations.GeometryViews := by
  refine fun s => ⟨fun hv => ?_, fun hv ht => ?_, fun ht => ?_⟩
  · have hnone : geometry s = none := geometry_eq_none.2 (Bool.eq_false_iff.2 fun hok => hv ((versionOk_iff _).1 hok))
    exact ⟨hnone, readReg_view_of_geometry_eq_none hnone⟩
  · have hok := (versionOk_iff _).2 hv
    obtain ⟨g, hg⟩ := exists_geometry hok
    have hfits := geometry_fits_of_wf ht hg
    have hm := geometry_matches ht hg
    obtain ⟨-, hsize, -⟩ := geometry_eq_some hg
    obtain ⟨-, -, -, hstream⟩ := ht.2 _ (vecEntry_mem ht hok s.regs.ecLevel)
    rw [VecEntry.streamFits, ← hm.dataTotal, ← hm.ecTotal] at hstream
    have hblocks := hfits.blocks_le
    have hec := hfits.ec_le
    refine ⟨g, _, hg, getElem?_vecEntry ht hok _, hsize, hm.ec, hm.blocks, hm.dataTotal, hm.ecTotal,
      fun k hk => ⟨rfl, hm.dataLen k hk, hfits.blockLen_le k hk⟩, ?_, ?_, ?_, ?_⟩
    · exact toNat_geomWord hg (by rw [hsize, symbolSize]; omega) (by omega) (by omega)
    · intro hd
      rw [readReg, group0Word, hg]
      exact toNat_groupWord (by rw [Geometry.blocks] at hblocks; omega) hd
    · intro hd
      rw [readReg, group1Word, hg]
      exact toNat_groupWord (by rw [Geometry.blocks] at hblocks; omega) hd
    · exact toNat_totalsWord hg (by omega) (by omega)
  · have hview {v l} (hv : s.regs.version = v) (hl : s.regs.ecLevel = l) := readReg_view_congr (geometry_isoState ht hv hl)
    refine ⟨fun hv hl => ?_, fun hv hl => ?_, fun hv hl => ?_, fun hv hl => ?_⟩
    · have h := hview hv hl
      rw [h .geom (by decide), h .totals (by decide), h .group0 (by decide), h .group1 (by decide)]
      decide
    · rw [hview hv hl .geom (by decide)]
      decide
    · have h := hview hv hl
      rw [h .totals (by decide), h .group0 (by decide), h .group1 (by decide)]
      decide
    · rw [hview hv hl .totals (by decide)]
      decide

/-! ### Placed commands, hardware reset and the invariant (10_state.md R34, R63) -/

/-- With BUSY = 1 and the engine's turn next, or no move left, a step with a legal table is the engine's. -/
theorem step_placeCommand {s : State} (ht : VecTableLegal s.rom.vecTable) (w : Word) :
    step (placeCommand w s) = engineStep (acceptCommand w s) := by
  have htable : vecTableOk (placeCommand w s).rom.vecTable = true := (vecTableOk_iff _).2 ht
  have hturn : nextTurn (placeCommand w s) = (.command, acceptCommand w s) := by
    obtain ⟨status, regs, pending, mem, rom, inputs, reads, draws⟩ := s
    cases inputs <;> rfl
  rw [step, if_pos htable, hturn]

theorem decode_of_decodeTableWord {nbits w : Nat} {i : Instr} (h : decodeTableWord nbits w = some i) :
    decode (tableWord nbits w) = .ok i := by
  unfold decodeTableWord at h
  split at h
  · rename_i j hj
    rw [hj, Option.some.inj h]
  · cases h

theorem engineStep_of_decode {s : State} {i : Instr} (h : decode s.pending = .ok i) : engineStep s = exec i s := by
  rw [engineStep, fetchCommand, h]

/-- Settles O5: the step is the engine's, and the accepted word decodes to `i`. -/
theorem placedCommandRunsNext : Obligations.PlacedCommandRunsNext := fun _ _ _ _ ht hdecode =>
  (step_placeCommand ht _).trans (engineStep_of_decode (decode_of_decodeTableWord hdecode))

theorem readReg_hardwareReset (s : State) {r : Reg} (hr : r ≠ .id) : readReg (hardwareReset s) r = 0 := by
  cases r with
  | id     => exact absurd rfl hr
  | status => exact show statusWord Status.reset = 0 by decide
  | _      => rfl

/-- Settles O57, field by field: what a hardware reset keeps of a state, no register reads. -/
theorem hardwareResetState : Obligations.HardwareResetState := fun s =>
  ⟨rfl, fun _ => readReg_hardwareReset s, rfl, rfl, rfl, fun _ => rfl, rfl, fun r => by cases r <;> rfl, fun _ => rfl⟩

/-- Settles O58: no byte is written, every count is 0, and the default table is legal. -/
theorem resetMeetsInvariant : Obligations.ResetMeetsInvariant where
  tableLegal := isoVecTable_legal
  memSorted := .nil
  memLegal := by simp [State.reset]
  memWhole := fun _ h => absurd h (by simp [State.reset, getByte])
  busyOrDone := by decide
  traceLegal := .inl rfl
  failsLegal := by decide

end Sys2Proof.Machine

/-! # The host port (20_memory.md): what an address names, which accesses are refused, and what the host can do meanwhile -/

namespace Sys2Proof.Machine

/-! ### One move (00_scope.md R10, 20_memory.md R89) -/

section
variable {s s' : State} (ht : VecTableLegal s.rom.vecTable)
include ht

theorem step_of_host_turn {t : Transaction} (h : nextTurn s = (.host t, s')) : step s = .next (portStep t s') := by
  rw [step, if_pos ((vecTableOk_iff _).2 ht), h]

theorem step_of_idle_turn (h : nextTurn s = (.idle, s')) : step s = .next s' := by
  rw [step, if_pos ((vecTableOk_iff _).2 ht), h]

end

/-- Settles O6: the list of moves and BUSY say whose turn it is. -/
theorem hostMovesAndIdleTurns : Obligations.HostMovesAndIdleTurns := fun s ht =>
  ⟨fun t rest h => step_of_host_turn ht (by simp [nextTurn, h]),
    fun hidle h => step_of_idle_turn ht (by simp [nextTurn, h, hidle]),
    fun rest hidle h => step_of_idle_turn ht (by simp [nextTurn, h, hidle])⟩

/-! ### The address map (R83) -/

theorem regOffset_of_getElem? {n : Nat} {r : Reg} (h : regMap[n]? = some r) : regOffset r = BitVec.ofNat 20 (4 * n) := by
  obtain ⟨hn, rfl⟩ := List.getElem?_eq_some_iff.1 h
  have hnodup : regMap.Nodup := by decide
  rw [regOffset, hnodup.idxOf_getElem]

/-- A register stands at its offset, and at no other word address. -/
theorem eq_regOffset_of_target {addr : Addr} {r : Reg} (halign : addr.toNat % 4 = 0) (h : target addr = .reg r) :
    addr = regOffset r := by
  unfold target at h
  dsimp only at h
  split at h
  · rename_i q hq
    obtain rfl := Target.reg.inj h
    rw [regOffset_of_getElem? hq]
    bv_omega
  · split at h <;> cases h

theorem target_of_lt {addr : Addr} (h : addr.toNat < 0x48) :
    ∃ r, regMap[addr.toNat / 4]? = some r ∧ target addr = .reg r := by
  have hr : regMap[addr.toNat / 4]? = some (regMap[addr.toNat / 4]'(show _ < 18 by omega)) := List.getElem?_eq_getElem _
  exact ⟨_, hr, by simp only [target, hr]⟩

theorem regMap_getElem?_of_ge {a : Nat} (h : 0x48 ≤ a) : regMap[a / 4]? = none :=
  List.getElem?_eq_none (show 18 ≤ _ by omega)

theorem target_of_inWindow {addr : Addr} {w : Window} (h : inWindow w addr.toNat) :
    target addr = .entry w ((addr.toNat - windowBase w) / 4) := by
  have hbase : 0x48 ≤ windowBase w := by cases w <;> decide
  have hreg := regMap_getElem?_of_ge (hbase.trans h.1)
  have hwindow := windowAt_eq_some_iff.2 h
  simp only [target, hreg, hwindow]

/-- The reserved addresses are those between the registers and the windows, and those above the windows. -/
theorem target_reserved {addr : Addr}
    (h : (0x48 ≤ addr.toNat ∧ addr.toNat < 0x400) ∨ (0xE00 ≤ addr.toNat ∧ addr.toNat < 0x40000) ∨ 0xE0000 ≤ addr.toNat) :
    target addr = .reserved := by
  have hnone : windowAt addr.toNat = none := by
    refine Option.eq_none_iff_forall_ne_some.2 fun w hw => ?_
    have hin := windowAt_eq_some_iff.1 hw
    cases w <;> simp only [inWindow, windowBase, windowSize] at hin <;> omega
  have hreg := regMap_getElem?_of_ge (a := addr.toNat) (by omega)
  simp only [target, hreg, hnone]

/-- Settles O49: below the windows the register map decides, in each window its base and size. -/
theorem addressMap : Obligations.AddressMap := by
  refine ⟨fun addr halign => ⟨fun h => ?_, ?_, ?_, ?_, ?_, ?_, ?_, ?_, target_reserved⟩, rfl, by decide,
    fun w => by cases w <;> decide⟩
  · obtain ⟨r, hr, htarget⟩ := target_of_lt h
    exact ⟨r, hr, htarget, (eq_regOffset_of_target halign htarget).symm⟩
  all_goals exact fun hlo hhi => target_of_inWindow ⟨hlo, hhi⟩

/-! ### Refused accesses (R81, R85) -/

theorem wholeWord_iff {addr : Addr} {be : BitVec 4} : wholeWord addr be = true ↔ be = 0xF ∧ addr.toNat % 4 = 0 := by
  have hlow : addr.extractLsb' 0 2 = 0 ↔ addr.toNat % 4 = 0 := by simp [← BitVec.toNat_inj]
  rw [wholeWord, Bool.and_eq_true, beq_iff_eq, beq_iff_eq, hlow]

theorem readRefused_iff {addr : Addr} {be : BitVec 4} :
    readRefused addr be = true ↔ be ≠ 0xF ∨ addr.toNat % 4 ≠ 0 ∨ target addr = .reserved := by
  rw [readRefused, Bool.or_eq_true, Bool.not_eq_true', beq_iff_eq, ← Bool.not_eq_true, wholeWord_iff, not_and_or, or_assoc]

/-- What is refused to a read is refused to a write. -/
theorem writeRefused_of_readRefused {addr : Addr} {be : BitVec 4} (h : readRefused addr be = true) (s : State) :
    writeRefused s addr be = true := by
  rw [readRefused, Bool.or_eq_true, beq_iff_eq] at h
  rw [writeRefused, Bool.or_eq_true]
  exact h.imp_right fun hreserved => by rw [hreserved]

theorem portWrite_of_refused {s : State} {addr : Addr} {be : BitVec 4} (h : writeRefused s addr be = true) (v : Word) :
    portWrite s addr be v = s.setBusErr := if_pos h

theorem portRead_of_refused {addr : Addr} {be : BitVec 4} (h : readRefused addr be = true) (s : State) :
    portRead s addr be = ((s.pushRead 0).setDraws (s.draws + 1)).setBusErr := by
  rw [portRead, readValue, if_pos h, if_pos h]

theorem portRead_of_not_refused {addr : Addr} {be : BitVec 4} (h : readRefused addr be = false) (s : State) :
    portRead s addr be = (s.pushRead (readValue s addr be)).setDraws (s.draws + 1) := by
  rw [portRead, h]
  rfl

/-- Settles O48: every such access is refused, whatever the state. -/
theorem refusedAccesses : Obligations.RefusedAccesses := by
  intro s addr be v h
  have hread : readRefused addr be = true := readRefused_iff.2 (h.imp_right (Or.imp_right target_reserved))
  exact ⟨portWrite_of_refused (writeRefused_of_readRefused hread s) v, portRead_of_refused hread s⟩

/-! ### Accesses of a window (R84) -/

section
variable {w : Window} {i : Nat} (hi : i < windowSize w)
include hi

theorem toNat_entryAddr : (BitVec.ofNat 20 (entryAddr w i)).toNat = entryAddr w i := by
  have hend : windowBase w + 4 * windowSize w ≤ 2 ^ 20 := by cases w <;> decide
  rw [BitVec.toNat_ofNat, Nat.mod_eq_of_lt]
  rw [entryAddr]
  omega

theorem target_entryAddr : target (BitVec.ofNat 20 (entryAddr w i)) = .entry w i := by
  have haddr := toNat_entryAddr hi
  have hin : inWindow w (entryAddr w i) := inWindow_entryAddr_add (j := 0) hi (by decide)
  rw [target_of_inWindow (by rwa [haddr]), haddr, entryAddr, Nat.add_sub_cancel_left, Nat.mul_div_cancel_left _ (by decide)]

theorem readRefused_entryAddr : readRefused (BitVec.ofNat 20 (entryAddr w i)) 0xF = false := by
  rw [← Bool.not_eq_true, readRefused_iff, toNat_entryAddr hi, target_entryAddr hi]
  simp [entryAddr_mod_four]

theorem writeRefused_entryAddr (s : State) : writeRefused s (BitVec.ofNat 20 (entryAddr w i)) 0xF = s.status.busy := by
  have hwhole : wholeWord (BitVec.ofNat 20 (entryAddr w i)) 0xF = true :=
    wholeWord_iff.2 ⟨rfl, by rw [toNat_entryAddr hi, entryAddr_mod_four]⟩
  rw [writeRefused, hwhole, target_entryAddr hi]
  rfl

theorem portWrite_entryAddr {s : State} (hidle : s.status.busy = false) (v : Word) :
    portWrite s (BitVec.ofNat 20 (entryAddr w i)) 0xF v =
      if windowWritable w then s.setMem (writeEntry s.mem w i v) else s := by
  rw [portWrite, writeRefused_entryAddr hi, hidle, target_entryAddr hi]
  rfl

theorem portRead_entryAddr {s : State} (hidle : s.status.busy = false) :
    portRead s (BitVec.ofNat 20 (entryAddr w i)) 0xF =
      (s.pushRead (readEntry s.draws s.mem w i)).setDraws (s.draws + 1) := by
  rw [portRead_of_not_refused (readRefused_entryAddr hi), readValue, readRefused_entryAddr hi, target_entryAddr hi, hidle]
  rfl

end

theorem readEntry_and_not_mask (d : Nat) (m : Memory) (w : Window) (i : Nat) :
    readEntry d m w i &&& ~~~(windowMask w) = 0 := by
  rw [readEntry, BitVec.and_assoc, BitVec.and_not_self]
  exact BitVec.and_zero

/-- A row-major index of rows of 256 splits into its column and its row. -/
theorem index_split {x : Nat} (y : Nat) (hx : x < 256) : (y * 256 + x) % 256 = x ∧ (y * 256 + x) / 256 = y := by
  omega

/-- Settles O50: an access at an entry's address is an access of that entry, whose memory laws say the rest. -/
theorem windowAccess : Obligations.WindowAccess := by
  refine ⟨fun s w i v hidle hi => ⟨fun hw => ?_, fun hw => ?_, portRead_entryAddr hi hidle, readEntry_and_not_mask ..⟩,
    rfl, fun _ y => index_split y, fun k _ => index_split k⟩
  · refine ⟨writeEntry s.mem w i v, by rw [portWrite_entryAddr hi hidle, if_pos hw]; rfl,
      fun d => readEntry_writeEntry d s.mem w i v, fun a ha => getByte_writeEntry_outside s.mem v ?_⟩
    rw [inEntries] at ha
    omega
  · rw [portWrite_entryAddr hi hidle, hw]
    rfl

/-! ### Accesses while a command runs (R87) -/

/-- While BUSY = 1 the port takes whole-word writes of CTRL and STATUS only. -/
theorem eq_regOffset_of_write_not_refused {s : State} {addr : Addr} {be : BitVec 4} (hbusy : s.status.busy = true)
    (h : writeRefused s addr be = false) : be = 0xF ∧ ∃ r, writableBusy r = true ∧ addr = regOffset r := by
  rw [writeRefused, Bool.or_eq_false_iff, Bool.not_eq_false', wholeWord_iff] at h
  obtain ⟨⟨hbe, halign⟩, hopen⟩ := h
  cases htarget : target addr with
  | reg r => exact ⟨hbe, r, by simpa [htarget, hbusy] using hopen, eq_regOffset_of_target halign htarget⟩
  | entry w i | reserved => simp [htarget, hbusy] at hopen

theorem writableBusy_iff {r : Reg} : writableBusy r = true ↔ r = .ctrl ∨ r = .status := by
  cases r <;> decide

theorem portRead_hidden {s : State} {addr : Addr} (hbusy : s.status.busy = true) (halign : addr.toNat % 4 = 0)
    (hmapped : target addr ≠ .reserved) (hhidden : ∀ r, readableBusy r = true → addr ≠ regOffset r) :
    portRead s addr 0xF = (s.pushRead (Config.freeWord s.draws)).setDraws (s.draws + 1) := by
  have hread : readRefused addr 0xF = false := by
    rw [← Bool.not_eq_true, readRefused_iff]
    simp [halign, hmapped]
  have hvalue : readValue s addr 0xF = Config.freeWord s.draws := by
    rw [readValue, hread, if_neg Bool.false_ne_true]
    cases htarget : target addr with
    | reg r =>
      have hr : readableBusy r ≠ true := fun hr => hhidden r hr (eq_regOffset_of_target halign htarget)
      simp [hbusy, hr]
    | entry w i => simp [hbusy]
    | reserved => exact absurd htarget hmapped
  rw [portRead_of_not_refused hread, hvalue]

/-- Settles O53: CTRL and STATUS are the writable registers then, and ID, CTRL, STATUS and CMD the readable ones. -/
theorem busyAccess : Obligations.BusyAccess := by
  refine fun s hbusy => ⟨portWrite_regOffset (r := .ctrl) (.inr rfl), portWrite_regOffset (r := .status) (.inr rfl),
    fun addr be v hctrl hstatus => portWrite_of_refused ?_ v,
    readValue_regOffset (r := .id) (.inr rfl), ?_, readValue_regOffset (r := .status) (.inr rfl),
    readValue_regOffset (r := .cmd) (.inr rfl), fun addr halign hlist hmapped => portRead_hidden hbusy halign hmapped ?_⟩
  · by_contra hopen
    obtain ⟨-, r, hr, rfl⟩ := eq_regOffset_of_write_not_refused hbusy (Bool.eq_false_iff.2 hopen)
    rcases writableBusy_iff.1 hr with rfl | rfl
    · exact hctrl rfl
    · exact hstatus rfl
  · exact (readValue_regOffset (r := .ctrl) (.inr rfl)).trans (BitVec.shiftLeft_zero _)
  · rintro r hr rfl
    revert hr hlist
    cases r <;> decide

/-! ### A running command and the host's writes (R87, R89) -/

/-- The bits that a host write can change while BUSY = 1: CTRL.IE, the W1C bits of STATUS, and BUSERR again by a refusal. -/
structure HostBits where
  ie     : Bool
  done   : Bool
  err    : Bool
  busErr : Bool

/-- `s` with the host's bits `b`. -/
def State.withHostBits (s : State) (b : HostBits) : State :=
  { s with
    regs   := { s.regs with ie := b.ie }
    status := { s.status with done := b.done, err := b.err, busErr := b.busErr } }

/-- A refused write sets BUSERR, one of CTRL sets IE, one of STATUS clears W1C bits (R33, R87). -/
theorem portWrite_busy {s : State} (hbusy : s.status.busy = true) (addr : Addr) (be : BitVec 4) (v : Word) :
    ∃ b, portWrite s addr be v = s.withHostBits b := by
  cases h : writeRefused s addr be with
  | true => exact ⟨⟨s.regs.ie, s.status.done, s.status.err, true⟩, portWrite_of_refused h v⟩
  | false =>
    obtain ⟨rfl, r, hr, rfl⟩ := eq_regOffset_of_write_not_refused hbusy h
    rw [portWrite_regOffset (.inr hr)]
    rcases writableBusy_iff.1 hr with rfl | rfl
    · exact ⟨⟨v.getLsbD 0, s.status.done, s.status.err, s.status.busErr⟩, rfl⟩
    · exact ⟨⟨s.regs.ie, _, _, _⟩, rfl⟩

/-- Both answer the same completion, of states that differ at most in the bits of the host. -/
def AgreeButHostBits (r r' : Result) : Prop :=
  ∃ code u b, r = .next (completion code u) ∧ r' = .next (completion code (u.withHostBits b))

theorem agree_completion (code : ErrCode) (s : State) (b : HostBits) :
    AgreeButHostBits (.next (completion code s)) (.next (completion code (s.withHostBits b))) := ⟨code, s, b, rfl, rfl⟩

theorem agree_ite {c : Prop} [Decidable c] {r₁ r₂ r₁' r₂' : Result} (h₁ : AgreeButHostBits r₁ r₁')
    (h₂ : AgreeButHostBits r₂ r₂') : AgreeButHostBits (if c then r₁ else r₂) (if c then r₁' else r₂') := by
  split
  · exact h₁
  · exact h₂

section
variable {s : State} {b : HostBits}

/-- The geometry does not read the host's bits. -/
theorem withGeometry_agree {run run' : Geometry → Result} (h : ∀ g, AgreeButHostBits (run g) (run' g)) :
    AgreeButHostBits (withGeometry s run) (withGeometry (s.withHostBits b) run') := by
  have hgeometry : geometry (s.withHostBits b) = geometry s := rfl
  rw [withGeometry, withGeometry, hgeometry]
  cases geometry s with
  | none   => exact agree_completion .badVersion s b
  | some g => exact h g

theorem withBlock_agree {k : BitVec 8} {run run' : Geometry → Result} (h : ∀ g, AgreeButHostBits (run g) (run' g)) :
    AgreeButHostBits (withBlock k s run) (withBlock k (s.withHostBits b) run') :=
  withGeometry_agree fun g => agree_ite (h g) (agree_completion .badBlock s b)

theorem fieldResult_agree (code : ErrCode) (r : Option Elem) :
    AgreeButHostBits (fieldResult code r s) (fieldResult code r (s.withHostBits b)) := by
  cases r with
  | none   => exact agree_completion code s b
  | some v => exact agree_completion .none (s.setGfR v) b

theorem execCorrect_agree (k : BitVec 8) (auto : Bool) :
    AgreeButHostBits (execCorrect k auto s) (execCorrect k auto (s.withHostBits b)) := by
  refine withBlock_agree fun g => ?_
  have hlist : erasureList auto k.toNat (g.blockLen k.toNat) (s.withHostBits b) =
    erasureList auto k.toNat (g.blockLen k.toNat) s := rfl
  rw [hlist]
  cases erasureList auto k.toNat (g.blockLen k.toNat) s with
  | none     => exact agree_completion .badErasure s b
  | some pos => exact agree_ite (agree_completion .uncorrectable _ b) (agree_completion .none _ b)

/-- No command reads the host's bits, and only RESET writes them. -/
theorem exec_agree (i : Instr) : AgreeButHostBits (exec i s) (exec i (s.withHostBits b)) := by
  cases i with
  | nop            => exact agree_completion .none s b
  | traverse       =>
    exact withGeometry_agree fun g => agree_ite (agree_completion .badValue s b) (agree_completion .none _ b)
  | deinterleave   =>
    exact withGeometry_agree fun g => agree_ite (agree_completion .shortStream s b)
      (agree_ite (agree_completion .badValue s b) (agree_completion .none _ b))
  | syndrome k     => exact withBlock_agree fun g => agree_completion .none _ b
  | correct k auto => exact execCorrect_agree k auto
  | correctAll     =>
    exact withGeometry_agree fun g => agree_ite (agree_completion .none _ b) (agree_completion .uncorrectable _ b)
  | polyEval k     => exact withBlock_agree fun g => agree_completion .none _ b
  | gfAdd | gfMul | gfExp => exact agree_completion .none _ b
  | gfDiv | gfInv | gfPow | gfLog => exact fieldResult_agree _ _
  | reset          => exact agree_completion .none _ ⟨false, false, false, false⟩

end

theorem engineStep_agree (s : State) (b : HostBits) :
    AgreeButHostBits (engineStep s) (engineStep (s.withHostBits b)) := by
  have hfetch : fetchCommand (s.withHostBits b) = fetchCommand s := rfl
  rw [engineStep, engineStep, hfetch]
  cases fetchCommand s with
  | ok i    => exact exec_agree i
  | error e => exact agree_completion .badCmd s b

/-- Settles O54: a host write changes the host's bits alone, which the running command does not read. -/
theorem hostCannotDisturbRunningCommand : Obligations.HostCannotDisturbRunningCommand := by
  refine fun s hbusy => ⟨fun addr be v => ?_, fun addr be => ?_⟩
  · obtain ⟨b, hwrite⟩ := portWrite_busy hbusy addr be v
    obtain ⟨code, u, b', hstep, hstep'⟩ := engineStep_agree s b
    rw [hwrite]
    exact ⟨_, _, hstep, hstep', rfl, rfl, rfl, rfl⟩
  · cases h : readRefused addr be with
    | true  => exact portRead_of_refused h s ▸ ⟨rfl, rfl, rfl, rfl⟩
    | false => exact portRead_of_not_refused h s ▸ ⟨rfl, rfl, rfl, rfl⟩

end Sys2Proof.Machine

/-! # The encoding (30_encoding.md): the fields of a command word, the rows of the opcode map, and decoding -/

namespace Sys2Proof.Machine

/-! ### A word is its four fields (R110) -/

theorem word_eq_iff_fields (w v : Word) :
    w = v ↔ opField w = opField v ∧ argField w = argField v ∧ autoField w = autoField v ∧
      w.extractLsb' 17 15 = v.extractLsb' 17 15 := by
  refine ⟨by rintro rfl; exact ⟨rfl, rfl, rfl, rfl⟩, fun ⟨hop, harg, hauto, hrsv⟩ => BitVec.eq_of_getLsbD_eq fun i hi => ?_⟩
  have field {lo n : Nat} (h : w.extractLsb' lo n = v.extractLsb' lo n) (hlo : lo ≤ i) (hn : i < lo + n) :
      w.getLsbD i = v.getLsbD i := by
    have hbit := congrArg (·.getLsbD (i - lo)) h
    simpa [BitVec.getLsbD_extractLsb', show i - lo < n by omega, show lo + (i - lo) = i by omega] using hbit
  rcases (by omega : i < 8 ∨ 8 ≤ i ∧ i < 16 ∨ i = 16 ∨ 17 ≤ i) with h | ⟨h, h'⟩ | rfl | h
  · exact field hop (Nat.zero_le i) (by omega)
  · exact field harg h h'
  · exact hauto
  · exact field hrsv h hi

section
variable (op arg : BitVec 8) (auto : Bool)

@[simp] theorem opField_commandWord : opField (commandWord op arg auto) = op := by
  ext i hi
  simp [opField, commandWord, hi, show i < 16 by omega, show i < 32 by omega]

@[simp] theorem argField_commandWord : argField (commandWord op arg auto) = arg := by
  ext i hi
  simp [argField, commandWord, show 8 + i < 16 by omega, show 8 + i < 32 by omega,
    BitVec.getLsbD_eq_getElem hi]

@[simp] theorem autoField_commandWord : autoField (commandWord op arg auto) = auto := by
  simp [autoField, commandWord]

@[simp] theorem rsv_commandWord : (commandWord op arg auto).extractLsb' 17 15 = 0 := by
  ext i hi
  simp [commandWord, show 17 + i - 16 ≠ 0 by omega, BitVec.getLsbD_of_ge op (17 + i) (by omega),
    BitVec.getLsbD_of_ge arg (17 + i - 8) (by omega)]

end

theorem eq_commandWord_iff (w : Word) (op arg : BitVec 8) (auto : Bool) :
    w = commandWord op arg auto ↔
      opField w = op ∧ argField w = arg ∧ autoField w = auto ∧ w.extractLsb' 17 15 = 0 := by
  simp [word_eq_iff_fields]

/-! ### The rows of the opcode map (R112) -/

/-- The opcodes with a block operand: SYNDROME, CORRECT and POLY_EVAL (R111). -/
def blockOpcodes : List (BitVec 8) := [0x03, 0x04, 0x06]

/-- Every bit of `w` outside OP and the free fields of its opcode is 0 (R113). -/
def FixedBitsZero (w : Word) : Prop :=
  (opField w ∉ blockOpcodes → argField w = 0) ∧ (opField w ≠ 0x04 → autoField w = false) ∧ w.extractLsb' 17 15 = 0

/-- A row's mask holds all of OP and RSV, ARG unless it is the block operand, and AUTO unless it is the erasure source; its
pattern is an opcode and nothing else. -/
theorem opcodeMap_masks_and_patterns : ∀ r ∈ opcodeMap,
    (opField r.mask = BitVec.allOnes 8 ∧
      argField r.mask = (if opField r.pattern ∈ blockOpcodes then 0 else BitVec.allOnes 8) ∧
      autoField r.mask = decide (opField r.pattern ≠ 0x04) ∧ r.mask.extractLsb' 17 15 = BitVec.allOnes 15) ∧
    argField r.pattern = 0 ∧ autoField r.pattern = false ∧ r.pattern.extractLsb' 17 15 = 0 := by
  decide

theorem and_freeMask_eq_zero_iff {n : Nat} (x : BitVec n) (free : Prop) [Decidable free] :
    x &&& (if free then 0 else BitVec.allOnes n) = 0 ↔ (¬ free → x = 0) := by
  split <;> simp [*]

/-- A word matches a row when it has the row's opcode and no fixed bit set. -/
theorem hits_iff {r : OpRow} (hr : r ∈ opcodeMap) (w : Word) :
    r.hits w = true ↔ opField w = opField r.pattern ∧ FixedBitsZero w := by
  obtain ⟨⟨hop, harg, hauto, hrsv⟩, hargP, hautoP, hrsvP⟩ := opcodeMap_masks_and_patterns r hr
  have hmasked : r.hits w = true ↔ opField w = opField r.pattern ∧ argField w &&& argField r.mask = 0 ∧
      (autoField w && autoField r.mask) = false ∧ w.extractLsb' 17 15 = 0 := by
    rw [OpRow.hits, beq_iff_eq, word_eq_iff_fields, hargP, hautoP, hrsvP]
    simp only [opField, argField, autoField, BitVec.extractLsb'_and, BitVec.getLsbD_and] at hop ⊢
    rw [hop, hrsv, BitVec.and_allOnes, BitVec.and_allOnes]
  have hautoFree : (autoField w && decide (opField r.pattern ≠ 0x04)) = false ↔
      (opField r.pattern ≠ 0x04 → autoField w = false) := by
    cases autoField w <;> simp
  rw [hmasked, harg, hauto, and_freeMask_eq_zero_iff, hautoFree]
  refine and_congr_right fun hw => ?_
  rw [FixedBitsZero, hw]

/-- A row's command is encoded by the row's opcode and those of the operands that are the row's free fields (R111). -/
theorem encode_command : ∀ r ∈ opcodeMap, ∀ (k : BitVec 8) (u : Bool),
    encode (r.command k u) = commandWord (opField r.pattern) (if opField r.pattern ∈ blockOpcodes then k else 0)
      (decide (opField r.pattern = 0x04) && u) := by
  intro r hr k u
  fin_cases hr <;> rfl

/-- The words of a row are those that encode the row's command of their own operands. -/
theorem hits_iff_eq_encode {r : OpRow} (hr : r ∈ opcodeMap) (w : Word) :
    r.hits w = true ↔ w = encode (r.command (argField w) (autoField w)) := by
  have harg : argField w = (if opField r.pattern ∈ blockOpcodes then argField w else 0) ↔
      (opField r.pattern ∉ blockOpcodes → argField w = 0) := by
    split <;> simp [*]
  have hauto : autoField w = (decide (opField r.pattern = 0x04) && autoField w) ↔
      (opField r.pattern ≠ 0x04 → autoField w = false) := by
    cases autoField w <;> simp
  rw [hits_iff hr, encode_command r hr, eq_commandWord_iff, harg, hauto]
  refine and_congr_right fun hw => ?_
  rw [FixedBitsZero, hw]

theorem opcodes_nodup : (opcodeMap.map fun r => opField r.pattern).Nodup := by decide

/-- No word matches two rows (R115): the opcodes differ. -/
theorem row_unique {w : Word} {r r' : OpRow} (hr : r ∈ opcodeMap) (hr' : r' ∈ opcodeMap) (h : r.hits w = true)
    (h' : r'.hits w = true) : r = r' :=
  List.inj_on_of_nodup_map opcodes_nodup hr hr' (((hits_iff hr w).1 h).1.symm.trans ((hits_iff hr' w).1 h').1)

/-- Every command stands in a row, with the operands that its word carries. -/
theorem exists_row (i : Instr) :
    ∃ r ∈ opcodeMap, r.command (argField (encode i)) (autoField (encode i)) = i := by
  cases i <;> simp [opcodeMap, encode]

/-! ### Decoding (R113, R115) -/

theorem decode_eq_ok_iff_commandOf {w : Word} {i : Instr} : decode w = .ok i ↔ commandOf w = some i := by
  unfold decode
  split
  · simp [*]
  · split <;> simp [*]

/-- Since no word matches two rows, the first row that matches is any row that matches. -/
theorem find?_hits_eq_some_iff {w : Word} {r : OpRow} :
    opcodeMap.find? (fun r => r.hits w) = some r ↔ r ∈ opcodeMap ∧ r.hits w = true := by
  have found {r : OpRow} (h : opcodeMap.find? (fun r => r.hits w) = some r) : r ∈ opcodeMap ∧ r.hits w = true :=
    ⟨List.mem_of_find?_eq_some h, List.find?_some (p := fun r : OpRow => r.hits w) h⟩
  refine ⟨found, fun ⟨hr, hhits⟩ => ?_⟩
  obtain ⟨r', hfind⟩ := Option.isSome_iff_exists.1 (List.find?_isSome (p := fun r : OpRow => r.hits w).2 ⟨r, hr, hhits⟩)
  rwa [row_unique hr (found hfind).1 hhits (found hfind).2]

theorem decode_eq_ok_iff {w : Word} {i : Instr} :
    decode w = .ok i ↔ ∃ r ∈ opcodeMap, r.hits w = true ∧ r.command (argField w) (autoField w) = i := by
  simp only [decode_eq_ok_iff_commandOf, commandOf, Option.map_eq_some_iff, find?_hits_eq_some_iff, and_assoc]

/-- Settles O1: a word decodes by the row it matches, and it matches the rows whose command it encodes. -/
theorem decodeInvertsEncode : Obligations.DecodeInvertsEncode := by
  intro w i
  rw [decode_eq_ok_iff]
  constructor
  · rintro ⟨r, hr, hhits, rfl⟩
    exact (hits_iff_eq_encode hr w).1 hhits
  · rintro rfl
    obtain ⟨r, hr, hi⟩ := exists_row i
    exact ⟨r, hr, (hits_iff_eq_encode hr _).2 (by rw [hi]), hi⟩

theorem exists_decode_eq_error_iff (w : Word) :
    (∃ e, decode w = .error e) ↔ ¬ ∃ r ∈ opcodeMap, r.hits w = true := by
  have hok : (∃ r ∈ opcodeMap, r.hits w = true) ↔ ∃ i, decode w = .ok i := by simp [decode_eq_ok_iff]
  rw [hok]
  cases decode w <;> simp

/-- The opcodes of R112 are all but those that R113 reserves. -/
theorem exists_opcode_iff : ∀ op : BitVec 8, (∃ r ∈ opcodeMap, op = opField r.pattern) ↔
    ¬ ((0x07 ≤ op.toNat ∧ op.toNat ≤ 0x0F) ∨ (0x17 ≤ op.toNat ∧ op.toNat ≤ 0xFE)) := by
  decide

/-- The illegal words by their fields (R113). -/
theorem illegal_iff (w : Word) : (∃ e, decode w = .error e) ↔
    ((0x07 ≤ (opField w).toNat ∧ (opField w).toNat ≤ 0x0F) ∨ (0x17 ≤ (opField w).toNat ∧ (opField w).toNat ≤ 0xFE)) ∨
    ¬ FixedBitsZero w := by
  have hlegal : (∃ r ∈ opcodeMap, r.hits w = true) ↔
      (∃ r ∈ opcodeMap, opField w = opField r.pattern) ∧ FixedBitsZero w :=
    ⟨fun ⟨r, hr, h⟩ => ⟨⟨r, hr, ((hits_iff hr w).1 h).1⟩, ((hits_iff hr w).1 h).2⟩,
      fun ⟨⟨r, hr, hop⟩, hzero⟩ => ⟨r, hr, (hits_iff hr w).2 ⟨hop, hzero⟩⟩⟩
  rw [exists_decode_eq_error_iff, hlegal, exists_opcode_iff, not_and_or, not_not]

theorem not_fixedBitsZero_iff (w : Word) : ¬ FixedBitsZero w ↔
    w.extractLsb' 17 15 ≠ 0 ∨ (argField w ≠ 0 ∧ opField w ∉ blockOpcodes) ∨ (autoField w = true ∧ opField w ≠ 0x04) := by
  rw [FixedBitsZero]
  grind

/-- Settles O2: a word is illegal when its OP is in no row or a fixed bit is set; CMD accepts any word while BUSY = 0. -/
theorem illegalWordsCompleteWithBadCmd : Obligations.IllegalWordsCompleteWithBadCmd := by
  refine ⟨fun w => ?_, fun w r r' hr hr' h h' => congrArg _ (row_unique hr hr' h h'), fun s w hidle => ?_,
    fun s e he => ⟨_, engineStep_of_decode_error he, raisedError_completion ..⟩⟩
  · rw [illegal_iff, not_fixedBitsZero_iff]
    rfl
  · rw [(commandIssue s w).1 hidle]
    exact ⟨rfl, rfl⟩

/-- Settles O3: by O1 a legal word decodes to the command whose word it is, and the words of ten commands are evaluated. -/
theorem sampleWordsDecode : Obligations.SampleWordsDecode := by
  unfold Obligations.SampleWordsDecode
  simp only [decodeInvertsEncode _ _]
  decide

/-! ### The engine's turn (R115, 00_scope.md R10) -/

theorem step_of_command_turn {s s' : State} (ht : VecTableLegal s.rom.vecTable) (h : nextTurn s = (.command, s')) :
    step s = engineStep s' := by
  rw [step, if_pos ((vecTableOk_iff _).2 ht), h]

/-- Settles O4: with BUSY = 1 the turn is the engine's, which decodes PENDING. -/
theorem engineRunsDecodedCommand : Obligations.EngineRunsDecodedCommand := fun s i ht hbusy hdecode =>
  ⟨fun h => (step_of_command_turn ht (by simp [nextTurn, h, hbusy])).trans (engineStep_of_decode hdecode),
    fun rest h => (step_of_command_turn ht (by simp [nextTurn, h, hbusy])).trans
      (engineStep_of_decode (s := s.setInputs rest) hdecode)⟩

end Sys2Proof.Machine

/-! # Traversal (40_traversal.md): the walk in closed form, what TRAVERSE writes, and which cells it reads -/

namespace Sys2Proof.Machine

/-! ### The walk, pair by pair (R141, R142) -/

/-- xr(p) of R141: the right column of pair `p`. -/
def rightColumn (n p : Nat) : Nat := if 7 ≤ n - 1 - 2 * p then n - 1 - 2 * p else n - 2 - 2 * p

/-- A round of R142 walks one pair, at column 5 in place of column 6, and goes on from two columns left of it. -/
theorem visitFrom_succ {xr : Int} (h0 : 0 ≤ xr) (n fuel : Nat) (upward : Bool) :
    visitFrom n (fuel + 1) xr upward =
      walkPair n upward (if xr = 6 then 5 else xr).toNat ++ visitFrom n fuel ((if xr = 6 then 5 else xr) - 2) (!upward) := by
  rw [visitFrom, if_neg (by omega)]

/-- The loop's column with `j` pairs to go: once it has passed column 6 it is odd. -/
def loopColumn (j : Nat) : Int := if 3 ≤ j then 2 * j else 2 * j - 1

/-- Pair `p` is walked at xr(p), whatever the loop's column before column 6 gave way to column 5. -/
theorem loopColumn_walked {n p j : Nat} (hn : n = 2 * (p + (j + 1)) + 1) :
    (if loopColumn (j + 1) = 6 then 5 else loopColumn (j + 1)) = rightColumn n p := by
  unfold loopColumn rightColumn
  split_ifs <;> omega

theorem rightColumn_sub_two {n p j : Nat} (hn : n = 2 * (p + (j + 1)) + 1) : (rightColumn n p : Int) - 2 = loopColumn j := by
  unfold loopColumn rightColumn
  split_ifs <;> omega

/-- With `j` pairs to go the loop walks pairs `p` on, N = 2(p + j) + 1. -/
theorem visitFrom_eq_pairs {n j : Nat} : ∀ {p fuel : Nat}, n = 2 * (p + j) + 1 → j ≤ fuel →
    visitFrom n fuel (loopColumn j) (p % 2 == 0) =
      (List.range' p j).flatMap fun q => walkPair n (q % 2 == 0) (rightColumn n q) := by
  induction j with
  | zero => exact fun _ _ => visitFrom_negative (by decide) _
  | succ j ih =>
    intro p fuel hn hfuel
    obtain ⟨fuel, rfl⟩ := Nat.exists_eq_add_one_of_ne_zero (Nat.ne_zero_of_lt hfuel)
    have hcolumn : 0 ≤ loopColumn (j + 1) := by unfold loopColumn; split <;> omega
    have hturn : (!(p % 2 == 0)) = ((p + 1) % 2 == 0) := by grind
    rw [visitFrom_succ hcolumn, loopColumn_walked hn, rightColumn_sub_two hn, hturn,
      ih (by omega) (Nat.le_of_succ_le_succ hfuel), List.range'_succ, List.flatMap_cons, Int.toNat_natCast]

theorem visitOrder_eq_pairs {k : Nat} (hk : 3 ≤ k) : visitOrder (2 * k + 1) =
    (List.range k).flatMap fun p => walkPair (2 * k + 1) (p % 2 == 0) (rightColumn (2 * k + 1) p) := by
  have hstart : ((2 * k + 1 : Nat) : Int) - 1 = loopColumn k := by rw [loopColumn, if_pos hk]; omega
  rw [visitOrder, hstart, List.range_eq_range']
  exact visitFrom_eq_pairs (p := 0) (by omega) (by omega)

/-! ### The walk in closed form (R142) -/

/-- Entry `i` of a concatenation of blocks of `m` entries each. -/
theorem getElem?_flatMap_of_length {α β : Type} {f : α → List β} {m : Nat} (hm : 0 < m) (hf : ∀ a, (f a).length = m)
    (l : List α) (i : Nat) : (l.flatMap f)[i]? = l[i / m]?.bind fun a => (f a)[i % m]? := by
  induction l generalizing i with
  | nil => simp
  | cons a l ih =>
    rw [List.flatMap_cons]
    rcases Nat.lt_or_ge i m with hi | hi
    · rw [List.getElem?_append_left (by rwa [hf]), Nat.div_eq_of_lt hi, Nat.mod_eq_of_lt hi]
      rfl
    · rw [List.getElem?_append_right (by rwa [hf]), hf, ih, Nat.mod_eq_sub_mod hi, Nat.div_eq_sub_div hm hi]
      rfl

theorem getElem?_rowOrder {n r : Nat} (hr : r < n) (upward : Bool) :
    (rowOrder n upward)[r]? = some (if upward then n - 1 - r else r) := by
  cases upward <;> simp [rowOrder, hr]

theorem getElem?_walkPair {n i : Nat} (hi : i < 2 * n) (upward : Bool) (xr : Nat) :
    (walkPair n upward xr)[i]? = some (xr - i % 2, if upward then n - 1 - i / 2 else i / 2) := by
  rw [walkPair, getElem?_flatMap_of_length Nat.two_pos (fun _ => rfl), getElem?_rowOrder (by omega), Option.bind_some]
  rcases Nat.mod_two_eq_zero_or_one i with h | h <;> rw [h] <;> rfl

/-- Entry `i` lies in pair i div 2N, as that pair's entry i mod 2N. -/
theorem getElem?_visitOrder {k i : Nat} (hk : 3 ≤ k) (hi : i < 2 * (2 * k + 1) * k) :
    (visitOrder (2 * k + 1))[i]? =
      some (rightColumn (2 * k + 1) (i / (2 * (2 * k + 1))) - i % 2,
        if i / (2 * (2 * k + 1)) % 2 = 0 then 2 * k + 1 - 1 - i % (2 * (2 * k + 1)) / 2
          else i % (2 * (2 * k + 1)) / 2) := by
  have hm : 0 < 2 * (2 * k + 1) := by omega
  rw [visitOrder_eq_pairs hk, getElem?_flatMap_of_length hm (fun _ => length_walkPair ..),
    List.getElem?_range (Nat.div_lt_of_lt_mul hi), Option.bind_some, getElem?_walkPair (Nat.mod_lt _ hm),
    Nat.mod_mod_of_dvd _ ⟨2 * k + 1, rfl⟩]
  simp only [beq_iff_eq]

/-! ### Each coordinate outside column 6 once (R141) -/

theorem mem_rowOrder {n y : Nat} {upward : Bool} : y ∈ rowOrder n upward ↔ y < n := by
  cases upward <;> simp [rowOrder]

theorem mem_walkPair {n x y : Nat} {upward : Bool} {xr : Nat} :
    (x, y) ∈ walkPair n upward xr ↔ y < n ∧ (x = xr ∨ x = xr - 1) := by
  simp only [walkPair, List.mem_flatMap, mem_rowOrder, List.mem_cons, List.not_mem_nil, or_false, Prod.mk.injEq]
  constructor
  · rintro ⟨_, hy, ⟨rfl, rfl⟩ | ⟨rfl, rfl⟩⟩
    exacts [⟨hy, .inl rfl⟩, ⟨hy, .inr rfl⟩]
  · exact fun ⟨hy, hx⟩ => ⟨y, hy, hx.imp (⟨·, rfl⟩) (⟨·, rfl⟩)⟩

/-- Every column but column 6 lies in a pair, and the pairs hold no other (R141). -/
theorem exists_pair_iff {k x : Nat} (hk : 3 ≤ k) :
    (∃ p < k, x = rightColumn (2 * k + 1) p ∨ x = rightColumn (2 * k + 1) p - 1) ↔ x < 2 * k + 1 ∧ x ≠ 6 := by
  unfold rightColumn
  constructor
  · rintro ⟨p, hp, h⟩
    split at h <;> omega
  · rintro ⟨hx, h6⟩
    rcases (by omega : 7 ≤ x ∨ x < 6) with h | h
    · exact ⟨(2 * k - x) / 2, by omega, by rw [if_pos (by omega)]; omega⟩
    · exact ⟨(2 * k - 1 - x) / 2, by omega, by rw [if_neg (by omega)]; omega⟩

theorem mem_visitOrder {k x y : Nat} (hk : 3 ≤ k) :
    (x, y) ∈ visitOrder (2 * k + 1) ↔ x < 2 * k + 1 ∧ y < 2 * k + 1 ∧ x ≠ 6 := by
  simp only [visitOrder_eq_pairs hk, List.mem_flatMap, List.mem_range, mem_walkPair]
  constructor
  · rintro ⟨p, hp, hy, hpair⟩
    obtain ⟨hx, h6⟩ := (exists_pair_iff hk).1 ⟨p, hp, hpair⟩
    exact ⟨hx, hy, h6⟩
  · rintro ⟨hx, hy, h6⟩
    obtain ⟨p, hp, hpair⟩ := (exists_pair_iff hk).2 ⟨hx, h6⟩
    exact ⟨p, hp, hy, hpair⟩

/-- The walk repeats no coordinate: it has as many entries as there are coordinates to visit. -/
theorem nodup_visitOrder {k : Nat} (hk : 3 ≤ k) : (visitOrder (2 * k + 1)).Nodup := by
  have hset : (visitOrder (2 * k + 1)).toFinset = (Finset.range (2 * k + 1)).erase 6 ×ˢ Finset.range (2 * k + 1) := by
    ext ⟨x, y⟩
    simp only [List.mem_toFinset, mem_visitOrder hk, Finset.mem_product, Finset.mem_erase, Finset.mem_range]
    tauto
  rw [← Multiset.coe_nodup, ← Multiset.toFinset_card_eq_card_iff_nodup]
  calc (visitOrder (2 * k + 1)).toFinset.card
      = 2 * k * (2 * k + 1) := by
        rw [hset, Finset.card_product, Finset.card_erase_of_mem (Finset.mem_range.2 (by omega)), Finset.card_range,
          Nat.add_sub_cancel]
    _ = (visitOrder (2 * k + 1)).length := by rw [length_visitOrder hk, Nat.mul_comm]

/-- Settles O27: N = 2k + 1, and the walk is k pairs of 2N entries. -/
theorem visitOrderClosedForm : Obligations.VisitOrderClosedForm := by
  intro v n hv _ hn
  obtain ⟨k, hk, rfl⟩ : ∃ k, 3 ≤ k ∧ n = 2 * k + 1 := ⟨2 * v + 8, by omega, by omega⟩
  refine ⟨length_visitOrder hk, fun i hi => ?_, fun x y => mem_visitOrder hk, nodup_visitOrder hk⟩
  exact getElem?_visitOrder hk (hi.trans_eq (by rw [Nat.add_sub_cancel]; ring))

/-! ### The sizes of a symbol -/

/-- A symbol's size is odd and at most 177 (R141), and column 6 lies in it. -/
theorem geometry_size {s : State} {g : Geometry} (hg : geometry s = some g) : ∃ k, 3 ≤ k ∧ k ≤ 88 ∧ g.size = 2 * k + 1 := by
  obtain ⟨hversion, hsize, -⟩ := geometry_eq_some hg
  have hv := (versionOk_iff _).1 hversion
  exact ⟨2 * s.regs.version.toNat + 8, by omega, by omega, by rw [hsize, symbolSize]; omega⟩

section
variable {s : State} {g : Geometry} (hg : geometry s = some g)
include hg

theorem length_visitOrder_of_geometry : (visitOrder g.size).length = g.size * (g.size - 1) := by
  obtain ⟨k, hk, -, hsize⟩ := geometry_size hg
  rw [hsize, length_visitOrder hk, Nat.add_sub_cancel]

theorem mem_visitOrder_of_geometry {p : Nat × Nat} :
    p ∈ visitOrder g.size ↔ p.1 < g.size ∧ p.2 < g.size ∧ p.1 ≠ 6 := by
  obtain ⟨k, hk, -, hsize⟩ := geometry_size hg
  rw [hsize]
  exact mem_visitOrder hk

end

/-! ### The words of a walk (R143, R145) -/

theorem toNat_traceWord {x y : Nat} (hx : x < 256) (hy : y < 256) (skipped : Bool) :
    (traceWord x y skipped).toNat = x + 256 * y + if skipped then 65536 else 0 := by
  have hX : (fieldAt 8 0 x).toNat = x := toNat_fieldAt_zero (by decide) hx
  have hXY : (fieldAt 8 0 x ||| fieldAt 8 8 y).toNat = x + y * 2 ^ 8 := by
    rw [toNat_or_fieldAt (by decide) (by omega) hy, hX]
  rw [traceWord, toNat_or_bitAt _ (by decide) (by omega), hXY]
  cases skipped <;> simp <;> omega

theorem toNat_traceWord_mask {x y : Nat} (hx : x < 256) (hy : y < 256) (skipped : Bool) :
    (traceWord x y skipped &&& windowMask .trace).toNat = x + 256 * y + if skipped then 65536 else 0 := by
  have hword := toNat_traceWord hx hy skipped
  rw [BitVec.toNat_and, show (windowMask .trace).toNat = 2 ^ 17 - 1 from rfl, Nat.and_two_pow_sub_one_eq_mod, hword,
    Nat.mod_eq_of_lt (by split <;> omega)]

/-- A tri-state code fits in the defined bits of a BITS entry. -/
theorem extractLsb'_setWidth_mask :
    ∀ b : TriCode, (b.setWidth 32 &&& windowMask .bits).extractLsb' 0 2 = b := by decide

theorem bitCode_of_readEntry {d i : Nat} {m : Memory} {b : TriCode}
    (h : readEntry d m .bits i = b.setWidth 32 &&& windowMask .bits) : bitCode d m i = b := by
  rw [bitCode, h, extractLsb'_setWidth_mask]

theorem unmask_eq (inverted : Bool) (val : TriCode) :
    unmask inverted val = if val = 2 then 2 else if inverted then val ^^^ 1 else val := by
  cases inverted <;> simp [unmask]

/-! ### What a walk leaves in memory and registers (R146) -/

section
variable {s : State} {bits entries : List Word}

@[simp] theorem storeWalk_mem :
    (storeWalk bits entries s).mem = writeEntries (writeEntries s.mem .trace 0 entries) .bits 0 bits := rfl

theorem toNat_storeWalk_bitCount (hbits : bits.length ≤ 32768) :
    (storeWalk bits entries s).regs.bitCount.toNat = bits.length :=
  Nat.mod_eq_of_lt (by omega)

theorem toNat_storeWalk_traceCount (htrace : entries.length ≤ 32768) :
    (storeWalk bits entries s).regs.traceCount.toNat = entries.length :=
  Nat.mod_eq_of_lt (by omega)

theorem readEntry_storeWalk_bits {i : Nat} {v : Word} (hv : bits[i]? = some v) (d : Nat) :
    readEntry d (storeWalk bits entries s).mem .bits i = v &&& windowMask .bits := by
  simpa using readEntry_writeEntries d bits (writeEntries s.mem .trace 0 entries) 0 hv

/-- The bits of a walk end below TRACE memory. -/
theorem readEntry_storeWalk_trace (hbits : bits.length ≤ 32768) {i : Nat} {v : Word} (hv : entries[i]? = some v) (d : Nat) :
    readEntry d (storeWalk bits entries s).mem .trace i = v &&& windowMask .trace := by
  have hbelow : ∀ a, entryAddr .trace i ≤ a → a < entryAddr .trace (i + 1) →
      getByte (storeWalk bits entries s).mem a = getByte (writeEntries s.mem .trace 0 entries) a := fun a ha _ =>
    getByte_writeEntries_outside bits _ 0 (.inr (by simp only [entryAddr, windowBase] at ha ⊢; omega))
  rw [readEntry_congr hbelow d]
  simpa using readEntry_writeEntries d entries s.mem 0 hv

theorem sameOutside_storeWalk :
    SameOutside (fun a => inEntries .trace 0 entries.length a ∨ inEntries .bits 0 bits.length a) s.mem
      (storeWalk bits entries s).mem := by
  intro a ha
  obtain ⟨htrace, hbits⟩ := not_or.1 ha
  simp only [inEntries] at htrace hbits
  exact (getByte_writeEntries_outside bits _ 0 (by omega)).trans (getByte_writeEntries_outside entries s.mem 0 (by omega))

end

/-! ### What TRAVERSE answers (R140) -/

/-- The bitstream of a TRAVERSE of size `n`, its cells as the emitting pass reads them (R143). -/
def walkBits (n : Nat) (s : State) : List Word :=
  bitsOf (maskBit s.rom.maskFn s.regs.maskId) (modCell (s.draws + 1) s.mem) (visitOrder n)

/-- The trace of a TRAVERSE of size `n`, its cells as the emitting pass reads them (R143). -/
def walkTrace (n : Nat) (s : State) : List Word := traceOf (modCell (s.draws + 1) s.mem) (visitOrder n)

/-- A TRAVERSE whose check pass finds a reserved code raises E_BAD_VALUE, and any other stores its walk. -/
theorem exec_traverse_eq {s : State} {g : Geometry} (hg : geometry s = some g) : exec .traverse s =
    .next (if (visitOrder g.size).any fun p => consumesReserved (modCell s.draws s.mem p.1 p.2) then completion .badValue s
      else completion .none (storeWalk (walkBits g.size s) (walkTrace g.size s) s)) := by
  refine (withGeometry_some hg _).trans ?_
  dsimp only
  split <;> rfl

section
variable {s : State} {g : Geometry} (hg : geometry s = some g)
include hg

theorem length_walkBits_le : (walkBits g.size s).length ≤ 32768 :=
  (length_bitsOf_le ..).trans (length_visitOrder_le hg)

theorem length_walkTrace_le : (walkTrace g.size s).length ≤ 32768 :=
  (List.length_map _).trans_le (length_visitOrder_le hg)

theorem length_walkTrace : (walkTrace g.size s).length = g.size * (g.size - 1) :=
  (List.length_map _).trans (length_visitOrder_of_geometry hg)

/-- The trace entry of the coordinate visited as number `i` (R145). -/
theorem toNat_readEntry_storeWalk_trace {i : Nat} {p : Nat × Nat} (hp : (visitOrder g.size)[i]? = some p) (d : Nat) :
    (readEntry d (storeWalk (walkBits g.size s) (walkTrace g.size s) s).mem .trace i).toNat =
      p.1 + 256 * p.2 + if (modCell (s.draws + 1) s.mem p.1 p.2).skip then 65536 else 0 := by
  obtain ⟨k, -, hk, hsize⟩ := geometry_size hg
  obtain ⟨hx, hy, -⟩ := (mem_visitOrder_of_geometry hg).1 (List.mem_of_getElem? hp)
  have hentry : (walkTrace g.size s)[i]? = some (traceWord p.1 p.2 (modCell (s.draws + 1) s.mem p.1 p.2).skip) := by
    rw [walkTrace, traceOf, List.getElem?_map, hp]
    rfl
  rw [readEntry_storeWalk_trace (length_walkBits_le hg) hentry, toNat_traceWord_mask (by omega) (by omega)]

end

/-- The bits of a walk as codes: U passes through, a known bit is XORed with the mask (R143). -/
def walkCodes (n : Nat) (s : State) : List TriCode :=
  ((visitOrder n).filter fun p => !(modCell (s.draws + 1) s.mem p.1 p.2).skip).map fun p =>
    unmask (maskBit s.rom.maskFn s.regs.maskId p.1 p.2) (modCell (s.draws + 1) s.mem p.1 p.2).val

theorem walkBits_eq_map (n : Nat) (s : State) : walkBits n s = (walkCodes n s).map (BitVec.setWidth 32) := by
  simp [walkBits, bitsOf, walkCodes]

/-- Settles O28: the check pass finds nothing, so the emitting pass stores its walk. -/
theorem traverseWritesWalk : Obligations.TraverseWritesWalk := by
  intro s g hg hclean
  have hpass : ¬ ((visitOrder g.size).any fun p => consumesReserved (modCell s.draws s.mem p.1 p.2)) = true := by
    simpa [consumesReserved, or_iff_not_imp_left] using hclean
  have hlength : (walkBits g.size s).length = (walkCodes g.size s).length := by rw [walkBits_eq_map, List.length_map]
  have hcode {i : Nat} {b : TriCode} (hb : (walkCodes g.size s)[i]? = some b) :
      (walkBits g.size s)[i]? = some (b.setWidth 32) := by rw [walkBits_eq_map, List.getElem?_map, hb]; rfl
  refine ⟨completion .none (storeWalk (walkBits g.size s) (walkTrace g.size s) s), walkCodes g.size s, ?_, ?_,
    ⟨rfl, rfl, rfl, rfl, rfl, rfl, rfl, rfl⟩, rfl, rfl, ?_, ?_, fun i p hp d => toNat_readEntry_storeWalk_trace hg hp d,
    fun i b hb d => bitCode_of_readEntry (readEntry_storeWalk_bits (hcode hb) d), ?_⟩
  · simp only [walkCodes, unmask_eq]
  · rw [exec_traverse_eq hg, if_neg hpass]
  · exact (toNat_storeWalk_bitCount (length_walkBits_le hg)).trans hlength
  · exact (toNat_storeWalk_traceCount (length_walkTrace_le hg)).trans (length_walkTrace hg)
  · rw [← hlength, ← length_walkTrace hg]
    exact sameOutside_storeWalk

/-! ### Which cells TRAVERSE reads (R147) -/

theorem modCell_congr {m m' : Memory} {x y : Nat}
    (h : ∀ a, inEntries .mod (modIndex x y) 1 a → getByte m' a = getByte m a) (d : Nat) :
    modCell d m' x y = modCell d m x y := by
  rw [modCell, modCell, readEntry_congr fun a ha ha' => h a ⟨ha, ha'⟩]

section
variable {cell cell' : Nat → Nat → ModCell} {seq : List (Nat × Nat)} (h : ∀ p ∈ seq, cell' p.1 p.2 = cell p.1 p.2)
include h

theorem traceOf_congr : traceOf cell' seq = traceOf cell seq :=
  List.map_congr_left fun p hp => by rw [h p hp]

theorem bitsOf_congr (inverted : Nat → Nat → Bool) : bitsOf inverted cell' seq = bitsOf inverted cell seq := by
  rw [bitsOf, bitsOf, List.filter_congr fun p hp => by rw [h p hp]]
  exact List.map_congr_left fun p hp => by rw [h p (List.mem_filter.1 hp).1]

theorem any_consumesReserved_congr :
    (seq.any fun p => consumesReserved (cell' p.1 p.2)) = seq.any fun p => consumesReserved (cell p.1 p.2) := by
  simp only [List.any_eq]
  exact decide_eq_decide.2 (exists_congr fun p => and_congr_right fun hp => by rw [h p hp])

end

/-- Settles O29: both runs see the same cells in either pass, so they decide alike and store the same walk. -/
theorem traverseReadsOnlyVisitedCells : Obligations.TraverseReadsOnlyVisitedCells := by
  intro s t t' g m' hg hagree ht ht'
  have hcell : ∀ d, ∀ p ∈ visitOrder g.size, modCell d m' p.1 p.2 = modCell d s.mem p.1 p.2 := fun d p hp => by
    obtain ⟨hx, hy, h6⟩ := (mem_visitOrder_of_geometry hg).1 hp
    exact modCell_congr (hagree _ _ hx hy h6) d
  have hbits : walkBits g.size (s.setMem m') = walkBits g.size s := bitsOf_congr (hcell _) _
  have htrace : walkTrace g.size (s.setMem m') = walkTrace g.size s := traceOf_congr (hcell _)
  rw [exec_traverse_eq hg] at ht
  rw [exec_traverse_eq (s := s.setMem m') hg, State.setMem_draws, State.setMem_mem, any_consumesReserved_congr (hcell _),
    hbits, htrace] at ht'
  obtain rfl := Host.Outcome.next.inj ht
  obtain rfl := Host.Outcome.next.inj ht'
  split
  · exact ⟨rfl, rfl, fun h => nomatch h⟩
  · refine ⟨rfl, rfl, fun _ => ⟨fun i hi d => ?_, fun i hi d => ?_⟩⟩
    · have hv := List.getElem?_eq_getElem (hi.trans_eq (toNat_storeWalk_bitCount (length_walkBits_le hg)))
      exact (readEntry_storeWalk_bits hv d).trans (readEntry_storeWalk_bits hv d).symm
    · have hv := List.getElem?_eq_getElem (hi.trans_eq (toNat_storeWalk_traceCount (length_walkTrace_le hg)))
      have hread (u : State) := readEntry_storeWalk_trace (s := u) (length_walkBits_le hg) hv d
      exact (hread _).trans (hread _).symm

end Sys2Proof.Machine

/-! # Deinterleaving (41_deinterleave.md): the order of the deal, the codewords, and what DEINTERLEAVE writes and reads -/

namespace Sys2Proof.Machine

/-! ### The deal in turns (R174, R176) -/

/-- The turns `p` to `p + n − 1` of the round robin as (block, pass): turn `q` asks block q mod NB, in pass q div NB. -/
def turns (nb p n : Nat) : List (Nat × Nat) := (List.range' p n).map fun q => (q % nb, q / nb)

/-- Those of the turns that ask a block which has room for a codeword in that pass (R174). -/
def turnsWithRoom (nb : Nat) (target : Nat → Nat) (p n : Nat) : List (Nat × Nat) :=
  (turns nb p n).filter fun e => e.2 < target e.1

theorem turns_succ (nb p n : Nat) : turns nb p (n + 1) = (p % nb, p / nb) :: turns nb (p + 1) n := by
  simp [turns, List.range'_succ]

theorem turnsWithRoom_succ_of_room {nb p : Nat} {target : Nat → Nat} (h : p / nb < target (p % nb)) (n : Nat) :
    turnsWithRoom nb target p (n + 1) = (p % nb, p / nb) :: turnsWithRoom nb target (p + 1) n := by
  rw [turnsWithRoom, turns_succ, List.filter_cons_of_pos (by simpa using h), turnsWithRoom]

theorem turnsWithRoom_succ_of_full {nb p : Nat} {target : Nat → Nat} (h : target (p % nb) ≤ p / nb) (n : Nat) :
    turnsWithRoom nb target p (n + 1) = turnsWithRoom nb target (p + 1) n := by
  rw [turnsWithRoom, turns_succ, List.filter_cons_of_neg (by simpa using h), turnsWithRoom]

theorem nodup_turnsWithRoom (nb : Nat) (target : Nat → Nat) (p n : Nat) : (turnsWithRoom nb target p n).Nodup := by
  refine (List.Nodup.map_on (fun q _ r _ h => ?_) (List.nodup_range' 1)).filter _
  obtain ⟨hmod, hdiv⟩ := Prod.mk.inj h
  rw [← Nat.div_add_mod q nb, ← Nat.div_add_mod r nb, hmod, hdiv]

/-- Pass by pass, each from block 0 to block NB − 1. -/
theorem turns_eq_passes (nb s : Nat) :
    turns nb 0 (nb * s) = (List.range s).flatMap fun j => (List.range nb).map fun k => (k, j) := by
  rcases Nat.eq_zero_or_pos nb with rfl | hnb
  · simp [turns]
  induction s with
  | zero => rfl
  | succ s ih =>
    have hpass : (List.range' (nb * s) nb).map (fun q => (q % nb, q / nb)) = (List.range nb).map fun k => (k, s) := by
      rw [List.range'_eq_map_range, List.map_map]
      refine List.map_congr_left fun k hk => ?_
      have hk := List.mem_range.1 hk
      simp [Nat.mul_add_div hnb, Nat.mod_eq_of_lt hk, Nat.div_eq_of_lt hk]
    rw [List.range_succ, List.flatMap_append, ← ih, List.flatMap_singleton, ← hpass, turns, turns, Nat.mul_succ,
      ← List.range'_append_1, List.map_append, Nat.zero_add]

/-- The turns with room column by column: in each pass, the blocks whose target exceeds the pass (R176). -/
theorem turnsWithRoom_eq_columns (nb s : Nat) (target : Nat → Nat) : turnsWithRoom nb target 0 (nb * s) =
    (List.range s).flatMap fun j => ((List.range nb).filter fun k => j < target k).map fun k => (k, j) := by
  rw [turnsWithRoom, turns_eq_passes, List.filter_flatMap]
  simp only [List.filter_map]
  rfl

/-- What the blocks hold before turn `p`: block i has been asked once in each turn q ≡ i modulo NB, and stops at its target. -/
def FilledBefore (nb : Nat) (target : Nat → Nat) (p : Nat) (fill : List Nat) : Prop :=
  ∀ i, i < nb → fill.getD i 0 = min (target i) (Nat.count (· ≡ i [MOD nb]) p)

theorem count_before_turn {nb : Nat} (hnb : 0 < nb) (p : Nat) : Nat.count (· ≡ p % nb [MOD nb]) p = p / nb := by
  simp [Nat.count_modEq_card p hnb]

theorem count_after_turn {nb i : Nat} (hi : i < nb) (p : Nat) :
    Nat.count (· ≡ i [MOD nb]) (p + 1) = Nat.count (· ≡ i [MOD nb]) p + if i = p % nb then 1 else 0 := by
  simp [Nat.count_succ, Nat.ModEq, Nat.mod_eq_of_lt hi, eq_comm]

section
variable {nb : Nat} {target : Nat → Nat} {p : Nat} {fill : List Nat} (hnb : 0 < nb) (h : FilledBefore nb target p fill)
include hnb h

theorem FilledBefore.at_turn : fill.getD (p % nb) 0 = min (target (p % nb)) (p / nb) := by
  rw [h _ (Nat.mod_lt p hnb), count_before_turn hnb]

/-- A turn whose block has reached its target changes nothing. -/
theorem FilledBefore.next_of_full (hfull : target (p % nb) ≤ p / nb) : FilledBefore nb target (p + 1) fill := by
  intro i hi
  rw [h i hi, count_after_turn hi]
  split
  · subst i
    rw [count_before_turn hnb]
    omega
  · rfl

/-- A turn whose block has room gives it a codeword. -/
theorem FilledBefore.next_of_room (hslots : fill.length = nb) (hroom : p / nb < target (p % nb)) :
    FilledBefore nb target (p + 1) (fill.set (p % nb) (fill.getD (p % nb) 0 + 1)) := by
  intro i hi
  rw [getD_set_succ ((Nat.mod_lt p hnb).trans_eq hslots.symm), h i hi, count_after_turn hi]
  split
  · subst i
    rw [count_before_turn hnb]
    omega
  · rfl

end

theorem skipFull_of_not_full {nb : Nat} {target : Nat → Nat} {fill : List Nat} {k : Nat} (hk : fill.getD k 0 ≠ target k)
    (fuel : Nat) : skipFull nb target fill fuel k = k := by
  cases fuel with
  | zero => rfl
  | succ fuel => rw [skipFull, if_neg hk]

theorem skipFull_of_full {nb : Nat} {target : Nat → Nat} {fill : List Nat} {k : Nat} (hk : fill.getD k 0 = target k)
    (fuel : Nat) : skipFull nb target fill (fuel + 1) k = skipFull nb target fill fuel ((k + 1) % nb) := by
  rw [skipFull, if_pos hk]

/-- A round that has found a block with room finds the same one with more fuel. -/
theorem skipFull_succ_of_not_full {nb : Nat} {target : Nat → Nat} {fill : List Nat} {fuel : Nat} : ∀ {k : Nat},
    fill.getD (skipFull nb target fill fuel k) 0 ≠ target (skipFull nb target fill fuel k) →
      skipFull nb target fill (fuel + 1) k = skipFull nb target fill fuel k := by
  induction fuel with
  | zero => exact fun hne => skipFull_of_not_full hne _
  | succ fuel ih =>
    intro k hne
    by_cases hfull : fill.getD k 0 = target k
    · rw [skipFull_of_full hfull] at hne ⊢
      rw [skipFull_of_full hfull, ih hne]
    · rw [skipFull_of_not_full hfull, skipFull_of_not_full hfull]

/-- The loop passes over a block that has reached its target. -/
theorem DealRoom.dealFrom_of_full {nb : Nat} {target : Nat → Nat} {count k : Nat} {fill : List Nat}
    (h : DealRoom nb target count fill) (hk : k < nb) (hfull : fill.getD k 0 = target k) :
    dealFrom nb target count k fill = dealFrom nb target count ((k + 1) % nb) fill := by
  cases count with
  | zero => rfl
  | succ count =>
    obtain ⟨fuel, rfl⟩ := Nat.exists_eq_add_one_of_ne_zero (Nat.ne_zero_of_lt hk)
    have hfound := (h.skipFull_lt hk).2.ne
    rw [skipFull_of_full hfull] at hfound
    rw [dealFrom, dealFrom, skipFull_of_full hfull, skipFull_succ_of_not_full hfound]

/-- The loop gives the next codeword to a block that has room. -/
theorem dealFrom_succ_of_room {nb : Nat} {target : Nat → Nat} {k : Nat} {fill : List Nat} (hroom : fill.getD k 0 < target k)
    (count : Nat) : dealFrom nb target (count + 1) k fill =
      (k, fill.getD k 0) :: dealFrom nb target count ((k + 1) % nb) (fill.set k (fill.getD k 0 + 1)) := by
  rw [dealFrom, skipFull_of_not_full hroom.ne]

/-- R174 in turns: those with room among the turns still to come get the codewords that are left. -/
theorem dealFrom_eq_turnsWithRoom {nb : Nat} (hnb : 0 < nb) {target : Nat → Nat} {n : Nat} :
    ∀ {p count : Nat} {fill : List Nat}, DealRoom nb target count fill → FilledBefore nb target p fill →
      count = (turnsWithRoom nb target p n).length →
        dealFrom nb target count (p % nb) fill = turnsWithRoom nb target p n := by
  induction n with
  | zero =>
    rintro p _ fill - - rfl
    rfl
  | succ n ih =>
    intro p count fill hdeal hfill hcount
    have hk := Nat.mod_lt p hnb
    have hat := hfill.at_turn hnb
    have hturn : (p % nb + 1) % nb = (p + 1) % nb := Nat.mod_add_mod p nb 1
    rcases Nat.lt_or_ge (p / nb) (target (p % nb)) with hroom | hfull
    · rw [turnsWithRoom_succ_of_room hroom] at hcount ⊢
      obtain rfl := hcount.trans List.length_cons
      rw [Nat.min_eq_right hroom.le] at hat
      rw [dealFrom_succ_of_room (by rwa [hat]), hturn, ih (hdeal.set_succ hk (by rwa [hat]))
        (hfill.next_of_room hnb hdeal.slots hroom) rfl, hat]
    · rw [turnsWithRoom_succ_of_full hfull] at hcount ⊢
      rw [Nat.min_eq_left hfull] at hat
      rw [hdeal.dealFrom_of_full hk hat, hturn, ih hdeal (hfill.next_of_full hnb hfull) hcount]

/-- In enough passes each block has room as often as its target says: count the columns of R176 block by block. -/
theorem length_turnsWithRoom {nb s : Nat} {target : Nat → Nat} (hs : ∀ k, k < nb → target k ≤ s) :
    (turnsWithRoom nb target 0 (nb * s)).length = ∑ k ∈ Finset.range nb, target k := by
  have hrow : ∀ k ∈ Finset.range nb, (Finset.range s).filter (· < target k) = Finset.range (target k) := fun k hk => by
    have := hs k (Finset.mem_range.1 hk)
    ext j
    simp only [Finset.mem_filter, Finset.mem_range]
    omega
  calc (turnsWithRoom nb target 0 (nb * s)).length
      = ∑ j ∈ Finset.range s, ((Finset.range nb).filter fun k => j < target k).card := by
        simp only [turnsWithRoom_eq_columns, List.length_flatMap, List.length_map]
        rfl
    _ = ∑ k ∈ Finset.range nb, ((Finset.range s).filter (· < target k)).card := by
        simp only [Finset.card_filter]
        exact Finset.sum_comm
    _ = ∑ k ∈ Finset.range nb, target k := Finset.sum_congr rfl fun k hk => by rw [hrow k hk, Finset.card_range]

theorem dealRoom_zero {nb count : Nat} {target : Nat → Nat} (hroom : count ≤ ∑ k ∈ Finset.range nb, target k) :
    DealRoom nb target count (List.replicate nb 0) where
  slots := List.length_replicate
  below k hk := by simp [List.getD_eq_getElem?_getD, hk]
  room := by simpa [List.getD_eq_getElem?_getD, Finset.sum_ite]

theorem filledBefore_zero (nb : Nat) (target : Nat → Nat) : FilledBefore nb target 0 (List.replicate nb 0) := by
  intro i hi
  simp [List.getD_eq_getElem?_getD, hi]

theorem target_le_sum {nb : Nat} (target : Nat → Nat) {k : Nat} (hk : k < nb) :
    target k ≤ ∑ i ∈ Finset.range nb, target i :=
  Finset.single_le_sum (fun _ _ => Nat.zero_le _) (Finset.mem_range.2 hk)

/-- A segment that fills its blocks goes to the turns with room; no target needs more passes than there are codewords. -/
theorem dealOrder_eq_turnsWithRoom (nb : Nat) (target : Nat → Nat) :
    dealOrder nb target (∑ k ∈ Finset.range nb, target k) =
      turnsWithRoom nb target 0 (nb * ∑ k ∈ Finset.range nb, target k) := by
  rcases Nat.eq_zero_or_pos nb with rfl | hnb
  · simp [dealOrder, dealFrom, turnsWithRoom, turns]
  · simpa only [dealOrder, Nat.zero_mod] using dealFrom_eq_turnsWithRoom hnb (p := 0) (dealRoom_zero le_rfl)
      (filledBefore_zero nb target) (length_turnsWithRoom fun _ => target_le_sum target).symm

/-- Settles O30: the deal takes the turns with room, and they go column by column. -/
theorem dealIsColumnByColumn : Obligations.DealIsColumnByColumn := fun nb target =>
  (dealOrder_eq_turnsWithRoom nb target).trans (turnsWithRoom_eq_columns nb _ target)

theorem nodup_dealOrder (nb : Nat) (target : Nat → Nat) :
    (dealOrder nb target (∑ k ∈ Finset.range nb, target k)).Nodup :=
  dealOrder_eq_turnsWithRoom nb target ▸ nodup_turnsWithRoom ..

/-- A segment that fills its blocks reaches every place below a target, and no other. -/
theorem mem_dealOrder {nb : Nat} {target : Nat → Nat} {k j : Nat} :
    (k, j) ∈ dealOrder nb target (∑ i ∈ Finset.range nb, target i) ↔ k < nb ∧ j < target k := by
  rw [dealOrder_eq_turnsWithRoom, turnsWithRoom_eq_columns]
  simp only [List.mem_flatMap, List.mem_map, List.mem_filter, List.mem_range, Prod.mk.injEq, decide_eq_true_eq]
  constructor
  · rintro ⟨_, -, _, ⟨hk, hj⟩, rfl, rfl⟩
    exact ⟨hk, hj⟩
  · exact fun ⟨hk, hj⟩ => ⟨j, hj.trans_le (target_le_sum target hk), k, ⟨hk, hj⟩, rfl, rfl⟩

@[simp] theorem length_dealFrom (nb : Nat) (target : Nat → Nat) (count k : Nat) (fill : List Nat) :
    (dealFrom nb target count k fill).length = count := by
  induction count generalizing k fill with
  | zero => rfl
  | succ count ih => rw [dealFrom, List.length_cons, ih]

@[simp] theorem length_dealOrder (nb : Nat) (target : Nat → Nat) (count : Nat) :
    (dealOrder nb target count).length = count :=
  length_dealFrom ..

theorem lt_of_getElem?_dealOrder {nb count i : Nat} {target : Nat → Nat} {e : Nat × Nat}
    (h : (dealOrder nb target count)[i]? = some e) : i < count := by
  simpa using (List.getElem?_eq_some_iff.1 h).1

/-! ### Codewords (R172, R173) -/

/-- One more code goes in as bit 0, the earlier ones move up. -/
theorem val_assembleCodeword_concat (codes : List TriCode) (b : TriCode) :
    (assembleCodeword (codes ++ [b])).val =
      (assembleCodeword codes).val <<< 1 ||| (BitVec.ofBool (b == 1)).setWidth 8 := by
  simp [assembleCodeword]

/-- Bit `n` of VAL comes from the code that is `n` places before the last. -/
theorem getLsbD_val_assembleCodeword (codes : List TriCode) : ∀ {n : Nat}, n < 8 →
    (assembleCodeword codes).val.getLsbD n = codes.reverse[n]?.any (· == 1) := by
  induction codes using List.reverseRecOn with
  | nil => intro n _; simp [assembleCodeword]
  | append_singleton codes b ih =>
    intro n hn
    rw [val_assembleCodeword_concat, List.reverse_concat]
    cases n with
    | zero => simp
    | succ n => simpa [hn, BitVec.getLsbD_eq_getElem (Nat.lt_of_succ_lt hn)] using ih (Nat.lt_of_succ_lt hn)

/-- Settles O31: code q of the eight is seven less q places before the last. -/
theorem codewordAssembly : Obligations.CodewordAssembly := by
  intro d m i
  refine ⟨by simp [streamCodeword, assembleCodeword], fun q hq => ?_⟩
  rw [streamCodeword, getLsbD_val_assembleCodeword _ (by omega), List.getElem?_reverse (by simp; omega)]
  simp [show 8 - 1 - (7 - q) = q by omega, hq]

/-- The fields of a codeword fit in the defined bits of a BLK entry (R55). -/
theorem codewordOf_codewordWord (c : Codeword) : codewordOf (codewordWord c &&& windowMask .blk) = c := by
  obtain ⟨u, val⟩ := c
  have hval : (codewordWord ⟨u, val⟩ &&& windowMask .blk).extractLsb' 0 8 = val := by
    have hflag : (bitAt u 8).extractLsb' 0 8 = 0 := by cases u <;> decide
    have hmask : (windowMask .blk).extractLsb' 0 8 = BitVec.allOnes 8 := by decide
    rw [codewordWord, BitVec.extractLsb'_and, BitVec.extractLsb'_or, hflag, hmask, BitVec.and_allOnes]
    ext i hi
    simp [show i < 32 by omega, BitVec.getLsbD_eq_getElem hi]
  have hu : (codewordWord ⟨u, val⟩ &&& windowMask .blk).getLsbD 8 = u := by
    simp [codewordWord, bitAt, windowMask]
  rw [codewordOf, hval, hu]

/-! ### Writes of entries of one window -/

section
variable {α : Type} {w : Window} {idx : α → Nat} {v : α → Word} {l : List α}

theorem getByte_foldl_writeEntry_outside {m : Memory} {a : Nat} (h : ∀ e ∈ l, ¬ inEntries w (idx e) 1 a) :
    getByte (l.foldl (fun m e => writeEntry m w (idx e) (v e)) m) a = getByte m a := by
  refine List.foldlRecOn (motive := fun m' => getByte m' a = getByte m a) _ _ rfl fun m' hm e he => ?_
  have := h e he
  rw [getByte_writeEntry_outside _ _ (by simp only [inEntries] at this; omega), hm]

/-- Entries written in turn, none twice, hold what was written. -/
theorem readEntry_foldl_writeEntry {m : Memory} (hnodup : (l.map idx).Nodup) {e : α} (he : e ∈ l) (d : Nat) :
    readEntry d (l.foldl (fun m e => writeEntry m w (idx e) (v e)) m) w (idx e) = v e &&& windowMask w := by
  induction l generalizing m with
  | nil => cases he
  | cons e' l ih =>
    obtain ⟨hnew, hnodup⟩ := List.nodup_cons.1 hnodup
    rcases List.mem_cons.1 he with rfl | he
    · have hkept : ∀ a, entryAddr w (idx e) ≤ a → a < entryAddr w (idx e + 1) →
          getByte (l.foldl (fun m e => writeEntry m w (idx e) (v e)) (writeEntry m w (idx e) (v e))) a =
            getByte (writeEntry m w (idx e) (v e)) a := fun a ha ha' => by
        refine getByte_foldl_writeEntry_outside fun f hf hin => ?_
        have hne : idx f ≠ idx e := fun h => hnew (List.mem_map.2 ⟨f, hf, h⟩)
        simp only [inEntries, entryAddr] at hin ha ha'
        omega
      rw [List.foldl_cons, readEntry_congr hkept, readEntry_writeEntry]
    · exact ih hnodup he

end

/-! ### What a deal leaves in memory (R174, R175, R179) -/

section
variable {nb : Nat} {target base : Nat → Nat} {seg : List Codeword} (hlen : seg.length = ∑ k ∈ Finset.range nb, target k)
include hlen

theorem place_of_mem_zip {k j : Nat} {c : Codeword} (h : ((k, j), c) ∈ (dealOrder nb target seg.length).zip seg) :
    k < nb ∧ j < target k := by
  have hplace := (List.of_mem_zip h).1
  rw [hlen] at hplace
  exact mem_dealOrder.1 hplace

theorem sameOutside_deal (m : Memory) :
    SameOutside (fun a => ∃ k, k < nb ∧ inEntries .blk (blkIndex k (base k)) (target k) a) m
      (deal nb target base seg m) := by
  intro a ha
  refine getByte_foldl_writeEntry_outside fun e he hin => ha ?_
  obtain ⟨⟨k, j⟩, c⟩ := e
  obtain ⟨hk, hj⟩ := place_of_mem_zip hlen he
  refine ⟨k, hk, ?_⟩
  simp only [inEntries, entryAddr, windowBase, blkIndex] at hin ⊢
  omega

variable (hfit : ∀ k, k < nb → base k + target k ≤ 256)
include hfit

/-- A deal whose blocks keep to their slots writes no entry of BLK twice. -/
theorem nodup_dealt_indices :
    (((dealOrder nb target seg.length).zip seg).map fun e => blkIndex e.1.1 (base e.1.1 + e.1.2)).Nodup := by
  have hplaces : (((dealOrder nb target seg.length).zip seg).map Prod.fst).Nodup := by
    rw [List.map_fst_zip (by simp), hlen]
    exact nodup_dealOrder nb target
  refine hplaces.of_map.map_on fun e he f hf h => List.inj_on_of_nodup_map hplaces he hf ?_
  obtain ⟨⟨k, j⟩, _⟩ := e
  obtain ⟨⟨l, i⟩, _⟩ := f
  obtain ⟨hk, hj⟩ := place_of_mem_zip hlen he
  obtain ⟨hl, hi⟩ := place_of_mem_zip hlen hf
  have hfk := hfit k hk
  have hfl := hfit l hl
  simp only [blkIndex] at h
  obtain rfl : k = l := by omega
  obtain rfl : j = i := by omega
  rfl

theorem blkEntry_deal {i k j : Nat} {c : Codeword} (hi : (dealOrder nb target seg.length)[i]? = some (k, j))
    (hc : seg[i]? = some c) (d : Nat) (m : Memory) : blkEntry d (deal nb target base seg m) k (base k + j) = c := by
  have he : ((k, j), c) ∈ (dealOrder nb target seg.length).zip seg :=
    List.mem_of_getElem? (List.getElem?_zip_eq_some.2 ⟨hi, hc⟩)
  rw [blkEntry, deal, readEntry_foldl_writeEntry (nodup_dealt_indices hlen hfit) he, codewordOf_codewordWord]

/-- A deal leaves alone what stands in its blocks before their bases. -/
theorem blkEntry_deal_of_lt_base {k j : Nat} (hk : k < nb) (hj : j < base k) (d : Nat) (m : Memory) :
    blkEntry d (deal nb target base seg m) k j = blkEntry d m k j := by
  have hkept : ∀ a, entryAddr .blk (blkIndex k j) ≤ a → a < entryAddr .blk (blkIndex k j + 1) →
      getByte (deal nb target base seg m) a = getByte m a := by
    refine fun a ha ha' => sameOutside_deal hlen m a ?_
    rintro ⟨l, hl, hin⟩
    have hfk := hfit k hk
    have hfl := hfit l hl
    simp only [inEntries, entryAddr, windowBase, blkIndex] at ha ha' hin
    obtain rfl : k = l := by omega
    omega
  rw [blkEntry, blkEntry, readEntry_congr hkept]

end

/-! ### What DEINTERLEAVE leaves in memory (R170, R179) -/

theorem Geometry.sum_ec (g : Geometry) : ∑ _k ∈ Finset.range g.blocks, g.ec = g.ecTotal := by
  simp [Geometry.ecTotal]

/-- The codewords of the data segment (R171). -/
def dataSegment (g : Geometry) (d : Nat) (m : Memory) : List Codeword :=
  (List.range g.dataTotal).map (streamCodeword d m)

/-- The codewords of the EC segment, which follows the data segment in the stream (R171). -/
def ecSegment (g : Geometry) (d : Nat) (m : Memory) : List Codeword :=
  (List.range g.ecTotal).map fun i => streamCodeword d m (g.dataTotal + i)

theorem inEntries_block {k lo len n a : Nat} (hle : lo + len ≤ n) (h : inEntries .blk (blkIndex k lo) len a) :
    inEntries .blk (blkIndex k 0) n a := by
  simp only [inEntries, entryAddr, windowBase, blkIndex] at h ⊢
  exact ⟨by omega, by omega⟩

section
variable {g : Geometry} (d : Nat) (m : Memory)

theorem dealSegments_eq : dealSegments g d m =
    deal g.blocks (fun _ => g.ec) g.dataLen (ecSegment g d m)
      (deal g.blocks g.dataLen (fun _ => 0) (dataSegment g d m) m) := by
  simp [dealSegments, dataSegment, ecSegment, List.range_add, Function.comp_def]

theorem length_dataSegment : (dataSegment g d m).length = ∑ k ∈ Finset.range g.blocks, g.dataLen k := by
  simp [dataSegment, g.sum_dataLen]

theorem length_ecSegment : (ecSegment g d m).length = ∑ _k ∈ Finset.range g.blocks, g.ec := by
  simp [ecSegment, g.sum_ec]

theorem sameOutside_dealSegments :
    SameOutside (fun a => ∃ k, k < g.blocks ∧ inEntries .blk (blkIndex k 0) (g.blockLen k) a) m (dealSegments g d m) := by
  intro a ha
  rw [dealSegments_eq,
    sameOutside_deal (length_ecSegment d m) _ a fun ⟨k, hk, hin⟩ => ha ⟨k, hk, inEntries_block le_rfl hin⟩,
    sameOutside_deal (length_dataSegment d m) _ a fun ⟨k, hk, hin⟩ =>
      ha ⟨k, hk, inEntries_block (by simp [Geometry.blockLen]) hin⟩]

end

theorem mem_dataOrder {g : Geometry} {k j : Nat} :
    (k, j) ∈ dealOrder g.blocks g.dataLen g.dataTotal ↔ k < g.blocks ∧ j < g.dataLen k := by
  rw [← g.sum_dataLen, mem_dealOrder]

theorem mem_ecOrder {g : Geometry} {k j : Nat} :
    (k, j) ∈ dealOrder g.blocks (fun _ => g.ec) g.ecTotal ↔ k < g.blocks ∧ j < g.ec := by
  rw [← g.sum_ec, mem_dealOrder]

section
variable {g : Geometry} (hg : g.Fits)
include hg

theorem Geometry.Fits.ec_end_le : ∀ k, k < g.blocks → g.dataLen k + g.ec ≤ 256 := fun k hk =>
  (hg.blockLen_le k hk).trans (by decide)

theorem Geometry.Fits.data_end_le : ∀ k, k < g.blocks → 0 + g.dataLen k ≤ 256 := fun k hk => by
  have := hg.ec_end_le k hk
  omega

theorem blkEntry_dealSegments_data {i k j : Nat} (hi : (dealOrder g.blocks g.dataLen g.dataTotal)[i]? = some (k, j))
    (d d' : Nat) (m : Memory) : blkEntry d' (dealSegments g d m) k j = streamCodeword d m i := by
  obtain ⟨hk, hj⟩ := mem_dataOrder.1 (List.mem_of_getElem? hi)
  have hcount : (dataSegment g d m).length = g.dataTotal := by simp [dataSegment]
  have hlt := lt_of_getElem?_dealOrder hi
  have hc : (dataSegment g d m)[i]? = some (streamCodeword d m i) := by simp [dataSegment, hlt]
  have h := blkEntry_deal (length_dataSegment d m) hg.data_end_le (hcount ▸ hi) hc d' m
  rwa [Nat.zero_add, ← blkEntry_deal_of_lt_base (length_ecSegment d m) hg.ec_end_le hk hj, ← dealSegments_eq] at h

theorem blkEntry_dealSegments_ec {i k j : Nat} (hi : (dealOrder g.blocks (fun _ => g.ec) g.ecTotal)[i]? = some (k, j))
    (d d' : Nat) (m : Memory) :
    blkEntry d' (dealSegments g d m) k (g.dataLen k + j) = streamCodeword d m (g.dataTotal + i) := by
  have hcount : (ecSegment g d m).length = g.ecTotal := by simp [ecSegment]
  have hlt := lt_of_getElem?_dealOrder hi
  have hc : (ecSegment g d m)[i]? = some (streamCodeword d m (g.dataTotal + i)) := by simp [ecSegment, hlt]
  rw [dealSegments_eq]
  exact blkEntry_deal (length_ecSegment d m) hg.ec_end_le (hcount ▸ hi) hc d' _

/-- Every position of a block receives a codeword of the stream, which one the memory does not decide. -/
theorem exists_codeword_of_position {k j : Nat} (hk : k < g.blocks) (hj : j < g.blockLen k) :
    ∃ i, i < g.dataTotal + g.ecTotal ∧ ∀ d d' m, blkEntry d' (dealSegments g d m) k j = streamCodeword d m i := by
  by_cases hdata : j < g.dataLen k
  · obtain ⟨i, hi⟩ := List.mem_iff_getElem?.1 (mem_dataOrder.2 ⟨hk, hdata⟩)
    have hlt := lt_of_getElem?_dealOrder hi
    exact ⟨i, by omega, fun d d' m => blkEntry_dealSegments_data hg hi d d' m⟩
  · obtain ⟨j, rfl⟩ := Nat.exists_eq_add_of_le (Nat.le_of_not_lt hdata)
    obtain ⟨i, hi⟩ := List.mem_iff_getElem?.1 (mem_ecOrder.2 ⟨hk, Nat.lt_of_add_lt_add_left hj⟩)
    have hlt := lt_of_getElem?_dealOrder hi
    exact ⟨g.dataTotal + i, by omega, fun d d' m => blkEntry_dealSegments_ec hg hi d d' m⟩

end

/-! ### What DEINTERLEAVE answers (R170, R178) -/

/-- A short stream raises E_SHORT_STREAM, then a reserved code among the bits read E_BAD_VALUE; any other stream is dealt. -/
theorem exec_deinterleave_eq {s : State} {g : Geometry} (hg : geometry s = some g) : exec .deinterleave s =
    .next (if s.regs.bitCount.toNat < 8 * (g.dataTotal + g.ecTotal) then completion .shortStream s
      else if (List.range (8 * (g.dataTotal + g.ecTotal))).any fun i => bitCode s.draws s.mem i == 3 then
        completion .badValue s
      else completion .none (s.setMem (dealSegments g s.draws s.mem))) := by
  refine (withGeometry_some hg _).trans ?_
  dsimp only
  split
  · rfl
  · split <;> rfl

/-- Settles O32: neither check raises an error, so both segments are dealt. -/
theorem deinterleaveFillsBlocks : Obligations.DeinterleaveFillsBlocks := by
  intro s g htable hg hlong hlegal
  have hfits := geometry_fits_of_wf htable hg
  have hclean : ¬ ((List.range (8 * (g.dataTotal + g.ecTotal))).any fun i => bitCode s.draws s.mem i == 3) = true := by
    simpa using hlegal
  refine ⟨completion .none (s.setMem (dealSegments g s.draws s.mem)), ?_, ⟨rfl, rfl, rfl, rfl, rfl, rfl, rfl, rfl⟩, rfl, rfl,
    fun i k j hi => ?_, fun i k j hi => ?_,
    fun k hk => ⟨fun j hj => mem_dataOrder.2 ⟨hk, hj⟩, fun j hj => mem_ecOrder.2 ⟨hk, hj⟩⟩,
    sameOutside_dealSegments _ _⟩
  · rw [exec_deinterleave_eq hg, if_neg (Nat.not_lt.2 hlong), if_neg hclean]
  · obtain ⟨hk, hj⟩ := mem_dataOrder.1 (List.mem_of_getElem? hi)
    exact ⟨hk, hj, fun d => blkEntry_dealSegments_data hfits hi _ d _⟩
  · obtain ⟨hk, hj⟩ := mem_ecOrder.1 (List.mem_of_getElem? hi)
    exact ⟨hk, hj, fun d => blkEntry_dealSegments_ec hfits hi _ d _⟩

/-! ### Which bits DEINTERLEAVE reads (R177) -/

section
variable {m m' : Memory} {n : Nat} (h : ∀ a, inEntries .bits 0 n a → getByte m' a = getByte m a)
include h

theorem bitCode_congr {i : Nat} (hi : i < n) (d : Nat) : bitCode d m' i = bitCode d m i := by
  rw [bitCode, bitCode, readEntry_congr fun a ha ha' => h a (by simp only [inEntries, entryAddr] at *; omega)]

theorem any_reserved_congr (d : Nat) :
    ((List.range n).any fun i => bitCode d m' i == 3) = (List.range n).any fun i => bitCode d m i == 3 := by
  rw [Bool.eq_iff_iff]
  simp only [List.any_eq_true]
  exact exists_congr fun i => and_congr_right fun hi => by rw [bitCode_congr h (List.mem_range.1 hi)]

theorem streamCodeword_congr {i : Nat} (hi : 8 * i + 8 ≤ n) (d : Nat) : streamCodeword d m' i = streamCodeword d m i := by
  have hcodes : ∀ q ∈ List.range 8, bitCode d m' (8 * i + q) = bitCode d m (8 * i + q) := fun q hq =>
    bitCode_congr h (by have := List.mem_range.1 hq; omega) d
  rw [streamCodeword, streamCodeword, List.map_congr_left hcodes]

end

/-- Settles O33: both runs make the same checks, and give every position the same codeword of the stream. -/
theorem deinterleaveIgnoresRemainder : Obligations.DeinterleaveIgnoresRemainder := by
  intro s t t' g m' htable hg hagree ht ht'
  rw [exec_deinterleave_eq hg] at ht
  rw [exec_deinterleave_eq (s := s.setMem m') hg, State.setMem_draws, State.setMem_mem, State.setMem_regs,
    any_reserved_congr hagree] at ht'
  obtain rfl := Host.Outcome.next.inj ht
  obtain rfl := Host.Outcome.next.inj ht'
  split
  · exact ⟨rfl, rfl, fun h => nomatch h⟩
  · split
    · exact ⟨rfl, rfl, fun h => nomatch h⟩
    · refine ⟨by simp, by simp, fun _ k j hk hj d => ?_⟩
      obtain ⟨i, hi, hentry⟩ := exists_codeword_of_position (geometry_fits_of_wf htable hg) hk hj
      calc blkEntry d (dealSegments g s.draws m') k j
          = streamCodeword s.draws m' i := hentry _ d m'
        _ = streamCodeword s.draws s.mem i := streamCodeword_congr hagree (by omega) _
        _ = blkEntry d (dealSegments g s.draws s.mem) k j := (hentry _ d s.mem).symm

end Sys2Proof.Machine

/-! # The field and its polynomials (42_galois.md): powers of the generator, the field laws, Horner's method, division -/

namespace Sys2Proof.Machine

/-! ### The tables (R200, R201) -/

/-- Twice an element, reduced by 0x11D when bit 7 is carried out (R200). -/
def double (a : Elem) : Elem := a <<< 1 ^^^ if a.msb then 0x1D else 0

theorem toNat_double : ∀ a : Elem,
    (double a).toNat = if 2 * a.toNat < 256 then 2 * a.toNat else (2 * a.toNat) ^^^ 0x11D := by
  decide +kernel

theorem expByte_succ : ∀ n < 255, expByte ((n + 1) % 255) = double (expByte n) := by decide +kernel

theorem gfLog_expByte : ∀ n < 255, gfLog (expByte n) = some n := by decide +kernel

/-- Every non-zero element stands in EXP, at the place that LOG gives. -/
theorem expByte_logRows : ∀ a : Elem,
    a ≠ 0 → romByte logRows a.toNat < 255 ∧ expByte (romByte logRows a.toNat) = a := by
  decide +kernel

/-! ### Powers of the generator (R200 to R206) -/

@[simp] theorem gfExp_zero : gfExp 0 = 1#8 := by decide +kernel

theorem gfExp_congr {i j : Int} (h : i % 255 = j % 255) : gfExp i = gfExp j := by rw [gfExp, gfExp, h]

theorem gfExp_eq_one {i : Int} (h : i % 255 = 0) : gfExp i = 1 := (gfExp_congr h).trans gfExp_zero

theorem gfExp_natCast {n : Nat} (hn : n < 255) : gfExp n = expByte n := by
  rw [gfExp, show ((n : Int) % 255).toNat = n by omega]

theorem gfExp_succ (i : Int) : gfExp (i + 1) = double (gfExp i) := by
  rw [gfExp, gfExp, ← expByte_succ _ (by omega)]
  congr 1
  omega

theorem gfExp_add_natCast (i : Int) (n : Nat) : gfExp (n + i) = double^[n] (gfExp i) := by
  induction n with
  | zero => simp
  | succ n ih => rw [Function.iterate_succ_apply', ← ih, ← gfExp_succ, Nat.cast_succ, add_right_comm]

@[simp] theorem gfLog_zero : gfLog 0#8 = none := rfl

@[simp] theorem gfLog_gfExp (i : Int) : gfLog (gfExp i) = some (i % 255).toNat := gfLog_expByte _ (by omega)

@[simp] theorem gfExp_ne_zero (i : Int) : gfExp i ≠ 0#8 := fun h => by
  have hlog := gfLog_gfExp i
  rw [h, gfLog_zero] at hlog
  cases hlog

theorem exists_gfExp {a : Elem} (ha : a ≠ 0) : ∃ n : Nat, n < 255 ∧ gfLog a = some n ∧ gfExp n = a := by
  obtain ⟨hlt, hexp⟩ := expByte_logRows a ha
  exact ⟨_, hlt, if_neg ha, (gfExp_natCast hlt).trans hexp⟩

/-- Every element is 0 or a power of the generator. -/
theorem eq_zero_or_gfExp (a : Elem) : a = 0#8 ∨ ∃ n : Nat, a = gfExp n :=
  or_iff_not_imp_left.2 fun ha => (exists_gfExp ha).imp fun _ ⟨_, _, hexp⟩ => hexp.symm

/-- Settles O14: the tables are those of R200 and R201 in every place, and any integer exponent counts mod 255. -/
theorem expAndLogTables : Obligations.ExpAndLogTables := by
  refine ⟨gfExp_zero, fun i => ?_, fun i => gfExp_congr (by omega), fun n hn => ?_, fun _ => exists_gfExp, gfLog_zero⟩
  · rw [gfExp_succ, toNat_double]
  · rw [gfExp_natCast hn, gfLog_expByte n hn]

@[simp] theorem gfMul_gfExp (i j : Int) : gfMul (gfExp i) (gfExp j) = gfExp (i + j) := by
  simp only [gfMul, gfLog_gfExp]
  exact gfExp_congr (by omega)

@[simp] theorem gfMul_zero (a : Elem) : gfMul a 0#8 = 0#8 := by
  simp only [gfMul, gfLog_zero]
  cases gfLog a <;> rfl

@[simp] theorem zero_gfMul (a : Elem) : gfMul 0#8 a = 0#8 := by
  simp only [gfMul, gfLog_zero]
  rfl

@[simp] theorem gfDiv_zero (a : Elem) : gfDiv a 0#8 = none := by
  simp only [gfDiv, gfLog_zero]

@[simp] theorem gfDiv_gfExp (i j : Int) : gfDiv (gfExp i) (gfExp j) = some (gfExp (i - j)) := by
  simp only [gfDiv, gfLog_gfExp]
  exact congrArg some (gfExp_congr (by omega))

@[simp] theorem zero_gfDiv_gfExp (j : Int) : gfDiv 0#8 (gfExp j) = some 0#8 := by
  simp only [gfDiv, gfLog_zero, gfLog_gfExp]
  rfl

@[simp] theorem gfInv_zero : gfInv 0#8 = none := gfDiv_zero 1

@[simp] theorem gfInv_gfExp (i : Int) : gfInv (gfExp i) = some (gfExp (255 - i)) := by
  calc gfInv (gfExp i) = gfDiv (gfExp 0) (gfExp i) := congrArg (gfDiv · _) gfExp_zero.symm
    _ = some (gfExp (255 - i)) := by
      rw [gfDiv_gfExp]
      exact congrArg some (gfExp_congr (by omega))

@[simp] theorem gfPow_zero (e : Int) : gfPow 0#8 e = none := rfl

@[simp] theorem gfPow_gfExp (i e : Int) : gfPow (gfExp i) e = some (gfExp (i * e)) := by
  simp only [gfPow, gfLog_gfExp]
  refine congrArg some (gfExp_congr ?_)
  rw [Int.toNat_of_nonneg (by omega)]
  simp [Int.mul_emod]

/-- Settles O15: LOG gives each power's exponent back, mod 255. -/
theorem fieldOperationsOnPowers : Obligations.FieldOperationsOnPowers :=
  ⟨gfMul_gfExp, fun a => ⟨gfMul_zero a, zero_gfMul a, gfDiv_zero a⟩,
    fun i j => ⟨gfDiv_gfExp i j, zero_gfDiv_gfExp j⟩, gfInv_gfExp, gfInv_zero, gfPow_gfExp, gfPow_zero⟩

/-! ### The field laws (R211) -/

theorem gfAdd_comm (a b : Elem) : gfAdd a b = gfAdd b a := BitVec.xor_comm a b

theorem gfAdd_assoc (a b c : Elem) : gfAdd (gfAdd a b) c = gfAdd a (gfAdd b c) := BitVec.xor_assoc a b c

@[simp] theorem gfAdd_zero (a : Elem) : gfAdd a 0#8 = a := BitVec.xor_zero

@[simp] theorem zero_gfAdd (a : Elem) : gfAdd 0#8 a = a := BitVec.zero_xor

@[simp] theorem gfAdd_self (a : Elem) : gfAdd a a = 0#8 := BitVec.xor_self

theorem gfAdd_left_comm (a b c : Elem) : gfAdd a (gfAdd b c) = gfAdd b (gfAdd a c) := by
  rw [← gfAdd_assoc, gfAdd_comm a b, gfAdd_assoc]

theorem gfMul_comm (a b : Elem) : gfMul a b = gfMul b a := by
  obtain rfl | ⟨i, rfl⟩ := eq_zero_or_gfExp a
  · simp
  obtain rfl | ⟨j, rfl⟩ := eq_zero_or_gfExp b
  · simp
  rw [gfMul_gfExp, gfMul_gfExp, add_comm]

theorem gfMul_assoc (a b c : Elem) : gfMul (gfMul a b) c = gfMul a (gfMul b c) := by
  obtain rfl | ⟨i, rfl⟩ := eq_zero_or_gfExp a
  · simp
  obtain rfl | ⟨j, rfl⟩ := eq_zero_or_gfExp b
  · simp
  obtain rfl | ⟨k, rfl⟩ := eq_zero_or_gfExp c
  · simp
  simp only [gfMul_gfExp, add_assoc]

@[simp] theorem gfMul_one (a : Elem) : gfMul a 1#8 = a := by
  obtain rfl | ⟨i, rfl⟩ := eq_zero_or_gfExp a
  · simp
  rw [← gfExp_zero, gfMul_gfExp, add_zero]

@[simp] theorem one_gfMul (a : Elem) : gfMul 1#8 a = a := by rw [gfMul_comm, gfMul_one]

theorem double_gfAdd (a b : Elem) : double (gfAdd a b) = gfAdd (double a) (double b) := by
  simp only [double, gfAdd, BitVec.shiftLeft_xor_distrib, BitVec.msb_xor]
  cases a.msb <;> cases b.msb <;> simp [BitVec.xor_assoc, BitVec.xor_comm (b <<< 1)]

/-- Multiplication by the n-th power of the generator is n doublings. -/
theorem gfExp_gfMul (n : Nat) (b : Elem) : gfMul (gfExp n) b = double^[n] b := by
  obtain rfl | ⟨j, rfl⟩ := eq_zero_or_gfExp b
  · rw [gfMul_zero, Function.iterate_fixed rfl]
  · rw [gfMul_gfExp, gfExp_add_natCast]

/-- Multiplication distributes over ⊕, because doubling does. -/
theorem gfMul_gfAdd (a b c : Elem) : gfMul a (gfAdd b c) = gfAdd (gfMul a b) (gfMul a c) := by
  obtain rfl | ⟨n, rfl⟩ := eq_zero_or_gfExp a
  · simp
  simp only [gfExp_gfMul]
  induction n with
  | zero => rfl
  | succ n ih => simp only [Function.iterate_succ_apply', ih, double_gfAdd]

theorem gfAdd_gfMul (a b c : Elem) : gfMul (gfAdd a b) c = gfAdd (gfMul a c) (gfMul b c) := by
  simp only [gfMul_comm _ c, gfMul_gfAdd]

theorem gfMul_eq_zero (a b : Elem) : gfMul a b = 0#8 ↔ a = 0#8 ∨ b = 0#8 := by
  obtain rfl | ⟨i, rfl⟩ := eq_zero_or_gfExp a
  · simp
  obtain rfl | ⟨j, rfl⟩ := eq_zero_or_gfExp b
  · simp
  simp

theorem exists_gfInv {a : Elem} (ha : a ≠ 0) : ∃ v, gfInv a = some v ∧ gfMul a v = 1 := by
  obtain ⟨n, -, -, rfl⟩ := exists_gfExp ha
  exact ⟨_, gfInv_gfExp n, by rw [gfMul_gfExp, gfExp_eq_one (by omega)]⟩

theorem exists_gfDiv (a : Elem) {b : Elem} (hb : b ≠ 0) : ∃ v, gfDiv a b = some v ∧ gfMul v b = a := by
  obtain ⟨n, -, -, rfl⟩ := exists_gfExp hb
  obtain rfl | ⟨i, rfl⟩ := eq_zero_or_gfExp a
  · exact ⟨0, zero_gfDiv_gfExp n, zero_gfMul _⟩
  · exact ⟨_, gfDiv_gfExp i n, by rw [gfMul_gfExp, sub_add_cancel]⟩

@[simp] theorem gfDiv_one (a : Elem) : gfDiv a 1#8 = some a := by
  obtain ⟨v, hdiv, hmul⟩ := exists_gfDiv a (b := 1#8) (by decide)
  rw [hdiv, ← hmul, gfMul_one]

/-- Settles O16: every element is 0 or a power of the generator, and multiplication by a power is repeated doubling. -/
theorem fieldLaws : Obligations.FieldLaws :=
  ⟨gfMul_comm, gfMul_assoc, gfMul_gfAdd, fun a b c => ⟨gfAdd_comm a b, gfAdd_assoc a b c⟩,
    fun a => ⟨gfAdd_zero a, gfMul_one a, gfAdd_self a⟩, fun _ => exists_gfInv, gfMul_eq_zero⟩

/-! ### What a field command answers (R213 to R219) -/

theorem wroteGfR_completion (v : Elem) (s : State) : WroteGfR v s (completion .none (s.setGfR v)) where
  completed := ⟨rfl, rfl, rfl, rfl, rfl, rfl, rfl, rfl⟩
  syndNz := rfl
  regs := rfl
  mem := rfl

theorem complete_setGfR (v : Elem) (s : State) : ∃ t, complete (s.setGfR v) = .next t ∧ WroteGfR v s t :=
  ⟨_, rfl, wroteGfR_completion v s⟩

theorem fieldResult_of_some {r : Option Elem} {v : Elem} (h : r = some v) (code : ErrCode) (s : State) :
    ∃ t, fieldResult code r s = .next t ∧ WroteGfR v s t := by
  subst h
  exact complete_setGfR v s

theorem fieldResult_of_none {r : Option Elem} (h : r = none) (code : ErrCode) (s : State) :
    ∃ t, fieldResult code r s = .next t ∧ RaisedError code s t := by
  subst h
  exact ⟨_, rfl, raisedError_completion code s⟩

/-- Settles O17: GF_ADD raises no error. -/
theorem gfAddXorsOperands : Obligations.GfAddXorsOperands := ⟨by decide, by decide, fun s => complete_setGfR _ s⟩

/-- Settles O18: GF_MUL raises no error, and 0 and 1 are special by the field laws. -/
theorem gfMulMultiplies : Obligations.GfMulMultiplies :=
  ⟨by decide, by decide +kernel, by decide +kernel, fun a => ⟨gfMul_zero a, zero_gfMul a, gfMul_one a, one_gfMul a⟩,
    fun s => complete_setGfR _ s⟩

/-- Settles O19: a divisor other than 0 has a quotient, and division by 0 is undefined. -/
theorem gfDivDivides : Obligations.GfDivDivides := by
  refine ⟨by decide, by decide +kernel, fun b hb => ?_, fun s => ⟨fun hzero => ?_, fun hb => ?_⟩⟩
  · obtain ⟨n, -, -, rfl⟩ := exists_gfExp hb
    simp
  · exact fieldResult_of_none (by simp [elemB, hzero]) .divZero s
  · obtain ⟨v, hdiv, hmul⟩ := exists_gfDiv s.regs.gfA hb
    obtain ⟨t, ht, hwrote⟩ := fieldResult_of_some hdiv .divZero s
    exact ⟨t, v, ht, hdiv, hmul, hwrote⟩

theorem gfInv_gfInv {a v : Elem} (h : gfInv a = some v) : gfInv v = some a := by
  obtain rfl | ⟨n, rfl⟩ := eq_zero_or_gfExp a
  · simp at h
  · rw [gfInv_gfExp] at h
    rw [← Option.some.inj h, gfInv_gfExp, sub_sub_cancel]

/-- Settles O20: an operand other than 0 has an inverse, and the inverse of 0 is undefined. -/
theorem gfInvInverts : Obligations.GfInvInverts := by
  refine ⟨by decide, by decide +kernel, by decide +kernel, fun _ _ => gfInv_gfInv,
    fun s => ⟨fun hzero => ?_, fun ha => ?_⟩⟩
  · exact fieldResult_of_none (by simp [elemA, hzero]) .divZero s
  · obtain ⟨v, hinv, hmul⟩ := exists_gfInv ha
    obtain ⟨t, ht, hwrote⟩ := fieldResult_of_some hinv .divZero s
    exact ⟨t, v, ht, hinv, hmul, hwrote⟩

/-- Settles O21: the exponents 0, 255 and −1 are read off on powers of the generator. -/
theorem gfPowRaisesToSignedExponent : Obligations.GfPowRaisesToSignedExponent := by
  refine ⟨by decide, by decide +kernel, by decide +kernel, by decide +kernel, by decide +kernel, fun a ha => ?_,
    fun s => ⟨fun hzero => ?_, fun ha => ?_⟩⟩
  · obtain ⟨n, -, -, rfl⟩ := exists_gfExp ha
    rw [gfPow_gfExp, gfPow_gfExp, gfPow_gfExp, gfInv_gfExp]
    exact ⟨congrArg some (gfExp_eq_one (by omega)), congrArg some (gfExp_eq_one (by omega)),
      congrArg some (gfExp_congr (by omega))⟩
  · exact fieldResult_of_none (by simp [elemA, hzero]) .logZero s
  · obtain ⟨n, -, hlog, -⟩ := exists_gfExp ha
    have hpow : gfPow (elemA s) (exponentB s) = some (gfExp (n * s.regs.gfB.toInt)) := by
      rw [gfPow, elemA, hlog]
      rfl
    obtain ⟨t, ht, hwrote⟩ := fieldResult_of_some hpow .logZero s
    exact ⟨t, n, ht, hlog, hwrote⟩

/-- Settles O22: GF_EXP raises no error, and GF_A as an integer is not negative. -/
theorem gfExpLooksUpAntilog : Obligations.GfExpLooksUpAntilog :=
  ⟨by decide, by decide +kernel, gfExp_zero, by decide +kernel, fun s => complete_setGfR (gfExp (exponentA s)) s⟩

/-- Settles O23: an operand other than 0 has a logarithm below 255, and the logarithm of 0 is undefined. -/
theorem gfLogLooksUpLogarithm : Obligations.GfLogLooksUpLogarithm := by
  refine ⟨by decide, by decide +kernel, by decide +kernel, by decide +kernel, by decide +kernel,
    fun s => ⟨fun hzero => ?_, fun ha => ?_⟩⟩
  · exact fieldResult_of_none (by simp [elemA, hzero]) .logZero s
  · obtain ⟨n, hlt, hlog, -⟩ := exists_gfExp ha
    have hresult : (gfLog (elemA s)).map (BitVec.ofNat 8) = some (BitVec.ofNat 8 n) := by
      rw [elemA, hlog, Option.map_some]
    obtain ⟨t, ht, hwrote⟩ := fieldResult_of_some hresult .logZero s
    exact ⟨t, n, ht, hlog, hlt, hwrote⟩

/-! ### Evaluation by Horner's method (R209, R220) -/

/-- x to the power n, by repeated multiplication. -/
def power (x : Elem) (n : Nat) : Elem := (fun y => gfMul y x)^[n] 1

theorem power_succ (x : Elem) (n : Nat) : power x (n + 1) = gfMul (power x n) x := Function.iterate_succ_apply' ..

/-- The sum of the coefficients times the powers of the point, the last coefficient at power 0 (00_scope.md R12). -/
def sumOfPowers (p : List Elem) (x : Elem) : Elem :=
  (p.zipIdx.map fun e => gfMul e.1 (power x (p.length - 1 - e.2))).foldl gfAdd 0

theorem foldl_gfAdd (a : Elem) (l : List Elem) : l.foldl gfAdd a = gfAdd a (l.foldl gfAdd 0) := by
  have : Std.Associative gfAdd := ⟨gfAdd_assoc⟩
  simpa using List.foldl_assoc (op := gfAdd) (l := l) (a₁ := a) (a₂ := 0)

theorem sumOfPowers_cons (a : Elem) (p : List Elem) (x : Elem) :
    sumOfPowers (a :: p) x = gfAdd (gfMul a (power x p.length)) (sumOfPowers p x) := by
  simp [sumOfPowers, List.zipIdx_succ, foldl_gfAdd (gfMul a _), Function.comp_def, Nat.sub_sub, Nat.add_comm 1]

/-- Horner's method may begin with 0. -/
theorem polyEval_eq_foldl (p : List Elem) (x : Elem) : polyEval p x = p.foldl (fun y a => gfAdd (gfMul y x) a) 0 := by
  cases p <;> simp [polyEval]

/-- Horner's method from any start: the start is multiplied by x once for each coefficient. -/
theorem foldl_horner (p : List Elem) (x y : Elem) :
    p.foldl (fun y a => gfAdd (gfMul y x) a) y = gfAdd (gfMul y (power x p.length)) (sumOfPowers p x) := by
  induction p generalizing y with
  | nil => simp [power, sumOfPowers]
  | cons a p ih =>
    calc (a :: p).foldl (fun y a => gfAdd (gfMul y x) a) y
        = gfAdd (gfMul (gfAdd (gfMul y x) a) (power x p.length)) (sumOfPowers p x) := ih _
      _ = gfAdd (gfMul (gfMul y x) (power x p.length)) (gfAdd (gfMul a (power x p.length)) (sumOfPowers p x)) := by
        rw [gfAdd_gfMul, gfAdd_assoc]
      _ = gfAdd (gfMul y (power x (p.length + 1))) (sumOfPowers (a :: p) x) := by
        rw [sumOfPowers_cons, power_succ, gfMul_assoc, gfMul_comm x]

/-- Settles O25: Horner's method from 0. -/
theorem hornerIsSumOfPowers : Obligations.HornerIsSumOfPowers := fun p x => by
  calc polyEval p x = gfAdd (gfMul 0 (power x p.length)) (sumOfPowers p x) := by rw [polyEval_eq_foldl, foldl_horner]
    _ = sumOfPowers p x := by simp

theorem foldl_last (p : List Elem) (y : Elem) : p.foldl (fun _ a => a) y = p.getLastD y := by
  induction p generalizing y with
  | nil => rfl
  | cons a p ih => rw [List.foldl_cons, ih, List.getLastD_cons]

theorem encode_polyEval (k : BitVec 8) : encode (.polyEval k) = k.setWidth 32 <<< 8 ||| 0x06 := by
  revert k
  decide +kernel

theorem withGeometry_none {s : State} (h : geometry s = none) (run : Geometry → Result) :
    withGeometry s run = .next (completion .badVersion s) := by
  rw [withGeometry, h]
  rfl

theorem not_versionValid_iff (s : State) : ¬ VersionValid s ↔ geometry s = none := by
  rw [geometry_eq_none, ← Bool.not_eq_true, versionOk_iff]

theorem exec_polyEval_eq {s : State} {g : Geometry} (hg : geometry s = some g) (k : BitVec 8) : exec (.polyEval k) s =
    if k.toNat < g.blocks then
      complete (s.setGfR (polyEval (blockMessage s.draws s.mem k.toNat (g.blockLen k.toNat)) s.regs.gfA))
    else raiseError .badBlock s :=
  withGeometry_some hg _

theorem getElem?_syndromes (msg : List Elem) {t i : Nat} (hi : i < t) :
    (syndromes msg t)[i]? = some (polyEval msg (gfExp i)) := by
  rw [syndromes, bind_pure_comp, List.map_eq_map, List.getElem?_map, List.getElem?_map, List.getElem?_range hi]
  rfl

/-- Settles O24: the two checks in R294's order, then Horner's method at GF_A, which at 0 keeps the last coefficient only. -/
theorem polyEvalEvaluatesBlock : Obligations.PolyEvalEvaluatesBlock := by
  refine ⟨encode_polyEval, fun p _ => ⟨?_, ?_⟩, fun k s => ⟨fun hv => ?_, fun g hg => ⟨fun hk => ?_, fun hk => ?_⟩⟩⟩
  · simp [polyEval_eq_foldl, foldl_last]
  · simp [polyEval_eq_foldl]
  · exact ⟨_, withGeometry_none ((not_versionValid_iff s).1 hv) _, raisedError_completion .badVersion s⟩
  · rw [exec_polyEval_eq hg, if_neg (by omega)]
    exact ⟨_, rfl, raisedError_completion .badBlock s⟩
  · rw [exec_polyEval_eq hg, if_pos hk]
    refine ⟨_, rfl, wroteGfR_completion _ s, fun i hi hpoint => ?_⟩
    rw [blockSyndromes, getElem?_syndromes _ hi, ← hpoint]
    rfl

/-! ### Division (R207, R208, R210) -/

/-- Coefficients of equal degree may be added in any order. -/
theorem zipWith_gfAdd_left_comm (p q r : List Elem) :
    List.zipWith gfAdd p (List.zipWith gfAdd q r) = List.zipWith gfAdd q (List.zipWith gfAdd p r) := by
  induction p generalizing q r with
  | nil => cases q <;> simp
  | cons a p ih => cases q <;> cases r <;> simp [gfAdd_left_comm, ih]

theorem zipWith_gfAdd_comm (p q : List Elem) : List.zipWith gfAdd p q = List.zipWith gfAdd q p :=
  List.zipWith_comm_of_comm gfAdd_comm

theorem zipWith_gfAdd_assoc (p q r : List Elem) :
    List.zipWith gfAdd (List.zipWith gfAdd p q) r = List.zipWith gfAdd p (List.zipWith gfAdd q r) := by
  rw [zipWith_gfAdd_comm, zipWith_gfAdd_left_comm, zipWith_gfAdd_comm r]

@[simp] theorem zipWith_gfAdd_zeros {p : List Elem} {n : Nat} (hn : p.length ≤ n) :
    List.zipWith gfAdd p (List.replicate n 0#8) = p := by
  induction p generalizing n with
  | nil => simp
  | cons a p ih =>
    obtain ⟨n, rfl⟩ := Nat.exists_eq_succ_of_ne_zero (Nat.ne_zero_of_lt hn)
    simpa [List.replicate_succ] using ih (Nat.le_of_succ_le_succ hn)

/-- What is added twice is gone. -/
theorem zipWith_gfAdd_cancel {p q : List Elem} (h : q.length ≤ p.length) :
    List.zipWith gfAdd p (List.zipWith gfAdd p q) = q := by
  induction p generalizing q with
  | nil => simpa using h
  | cons a p ih => cases q <;> simp_all [← gfAdd_assoc]

/-- The lengths of R208. -/
@[simp] theorem length_polyMul (p q : List Elem) : (polyMul p q).length = p.length + q.length - 1 := by
  induction q with
  | nil => simp [polyMul]
  | cons b q ih =>
    simp only [polyMul, List.length_zipWith, List.length_append, List.length_map, List.length_replicate,
      List.length_cons, ih]
    omega

theorem nil_polyMul (q : List Elem) : polyMul [] q = List.replicate (q.length - 1) 0 := by
  induction q with
  | nil => rfl
  | cons b q ih => cases q <;> simp_all [polyMul, List.replicate_succ]

/-- Multiplication by its first operand: the coefficient `a` adds `a` times the other operand at the front. -/
theorem polyMul_cons (a : Elem) (p q : List Elem) : polyMul (a :: p) q =
    List.zipWith gfAdd (q.map (gfMul a) ++ List.replicate p.length 0) (0 :: polyMul p q) := by
  induction q with
  | nil => cases p <;> simp [polyMul, List.replicate_succ]
  | cons b q ih => simp [polyMul, ih, zipWith_gfAdd_left_comm]

@[simp] theorem addInto_zeros (p : List Elem) (n : Nat) : addInto p (List.replicate n 0#8) = p := by
  induction p generalizing n with
  | nil => cases n <;> rfl
  | cons a p ih => cases n <;> simp [addInto, List.replicate_succ, ih]

theorem addInto_eq {p q : List Elem} {n : Nat} (h : p.length = n + q.length) :
    addInto p q = List.zipWith gfAdd (q ++ List.replicate n 0) p := by
  induction q generalizing p with
  | nil => cases p <;> simp_all [addInto, zipWith_gfAdd_comm]
  | cons b q ih =>
    cases p with
    | nil => simp at h
    | cons a p => simp [addInto, ih (Nat.succ.inj h), gfAdd_comm a]

/-- Each round of R210's loop takes the leading coefficient off by a multiple of the divisor, shifted to the front. -/
theorem polyDivSteps_eq {lead : Elem} (hlead : lead ≠ 0) (rest : List Elem) {steps : Nat} {out : List Elem}
    (hout : out.length = steps + rest.length) :
    ∃ quo rem, polyDivSteps lead rest steps out = some (quo, rem) ∧ quo.length = steps ∧ rem.length = rest.length ∧
      List.zipWith gfAdd (polyMul quo (lead :: rest)) (List.replicate steps 0 ++ rem) = out := by
  induction steps generalizing out with
  | zero => exact ⟨[], out, by simp [polyDivSteps], rfl, by omega, by simp [nil_polyMul, zipWith_gfAdd_comm, hout]⟩
  | succ steps ih =>
    cases out with
    | nil => exact absurd hout (by simp; omega)
    | cons a out =>
      obtain ⟨c, hdiv, hc⟩ := exists_gfDiv a hlead
      have hlen : out.length = steps + (rest.map (gfMul c)).length := by
        rw [List.length_cons] at hout
        rw [List.length_map]
        omega
      obtain ⟨quo, rem, hrec, hquo, hrem, hsum⟩ := ih (out := addInto out (rest.map (gfMul c)))
        (by simp [addInto_eq hlen, hlen, Nat.add_comm])
      refine ⟨c :: quo, rem, ?_, by simp [hquo], hrem, ?_⟩
      · simp [polyDivSteps, hdiv, hrec, gfMul_comm _ c]
      · have htail : List.zipWith gfAdd (rest.map (gfMul c) ++ List.replicate steps 0)
            (List.zipWith gfAdd (polyMul quo (lead :: rest)) (List.replicate steps 0 ++ rem)) = out := by
          rw [hsum, addInto_eq hlen, zipWith_gfAdd_cancel (by simp [hlen, Nat.add_comm])]
        simpa [polyMul_cons, hquo, hc, List.replicate_succ, zipWith_gfAdd_assoc] using htail

/-- Each round of division by x^m takes the leading coefficient as it is and subtracts 0. -/
theorem polyDivSteps_power {m steps : Nat} {out : List Elem} (hout : out.length = steps + m) :
    polyDivSteps 1#8 (List.replicate m 0#8) steps out = some (out.take steps, out.drop steps) := by
  induction steps generalizing out with
  | zero => simp [polyDivSteps]
  | succ steps ih =>
    cases out with
    | nil => exact absurd hout (by simp; omega)
    | cons a out =>
      have hlen : out.length = steps + m := by simpa [Nat.add_right_comm] using hout
      simp [polyDivSteps, ih hlen]

theorem polyAdd_eq {p q : List Elem} {n : Nat} (h : p.length = n + q.length) :
    polyAdd p q = List.zipWith gfAdd p (List.replicate n 0 ++ q) := by
  simp [polyAdd, padFront, h]

/-- Settles O26: the loop of R210 keeps dividend = quotient · divisor + what is left, and by x^m it changes nothing. -/
theorem polyDivisionIdentity : Obligations.PolyDivisionIdentity := by
  refine ⟨fun dd lead rest hlead hshort => ?_, fun dd m hm => ?_⟩
  · have hlen : dd.length = dd.length - rest.length + rest.length := by omega
    obtain ⟨quo, rem, hdiv, hquo, hrem, hsum⟩ := polyDivSteps_eq hlead rest hlen
    refine ⟨quo, rem, by rw [polyDiv, if_neg hlead, hdiv], hquo, hrem, ?_⟩
    rwa [polyAdd_eq (n := dd.length - rest.length) (by simp [hquo, hrem])]
  · rw [polyDiv, if_neg (by decide), List.length_replicate]
    exact polyDivSteps_power (by omega)

end Sys2Proof.Machine

/-! # Reed-Solomon (43_reed_solomon.md): syndromes, erasure lists, Forney's formula, and what the corrections write -/

namespace Sys2Proof.Machine

/-! ### Erasure lists (R243, R244) -/

/-- The defined bits of an ERASURE entry are its position (10_state.md R56). -/
theorem extractLsb'_readEntry_erasure (d : Nat) (m : Memory) (i : Nat) :
    ((readEntry d m .erasure i).extractLsb' 0 8).toNat = (readEntry d m .erasure i).toNat := by
  have hmask : readEntry d m .erasure i = readEntry d m .erasure i &&& windowMask .erasure := by
    rw [readEntry, BitVec.and_assoc, BitVec.and_self]
  have hlt : (readEntry d m .erasure i).toNat < 2 ^ 8 := by
    rw [hmask, BitVec.toNat_and]
    exact Nat.and_lt_two_pow _ (by decide)
  rw [BitVec.extractLsb'_toNat, Nat.shiftRight_zero, Nat.mod_eq_of_lt hlt]

theorem listedErasures_eq (d : Nat) (m : Memory) (count : Nat) :
    listedErasures d m count = (List.range count).map fun i => (readEntry d m .erasure i).toNat := by
  simp only [listedErasures, extractLsb'_readEntry_erasure]

/-- AUTO = 0 with at most ERASURE_CAP entries: the list is refused when one of its positions is outside the block. -/
theorem erasureList_false {s : State} (hcap : s.regs.eraseCount.toNat ≤ 256) (k n : Nat) : erasureList false k n s =
    if (listedErasures s.draws s.mem s.regs.eraseCount.toNat).any (n ≤ ·) then none
    else some (listedErasures s.draws s.mem s.regs.eraseCount.toNat) := by
  rw [erasureList, if_neg Bool.false_ne_true, if_neg (Nat.not_lt.2 hcap)]

/-- An erasure list has at most ERASURE_CAP = 256 positions, if its block has no more. -/
theorem length_erasureList_le {auto : Bool} {k n : Nat} {s : State} {pos : List Nat} (h : erasureList auto k n s = some pos)
    (hn : n ≤ 256) : pos.length ≤ 256 := by
  cases auto with
  | true =>
    obtain rfl := Option.some.inj h
    exact (List.length_filter_le _ _).trans (by simpa using hn)
  | false =>
    have hcap : s.regs.eraseCount.toNat ≤ 256 := by
      by_contra hover
      simp [erasureList, Nat.lt_of_not_le hover] at h
    rw [erasureList_false hcap] at h
    split at h
    · cases h
    · obtain rfl := Option.some.inj h
      simpa [listedErasures] using hcap

/-- Settles O35: a filter of an increasing list increases, and the explicit list is read entry by entry. -/
theorem erasureListForms : Obligations.ErasureListForms := by
  intro k n s
  refine ⟨⟨_, rfl, List.pairwise_lt_range.filter _, by simp [flaggedErasures]⟩, fun hover => ?_,
    fun hcap => ⟨?_, fun hin => ?_⟩⟩
  · rw [erasureList, if_neg Bool.false_ne_true, if_pos hover]
  · rintro ⟨m, hm, hout⟩
    rw [erasureList_false hcap, if_pos]
    rw [listedErasures_eq, List.any_map]
    exact List.any_eq_true.2 ⟨m, List.mem_range.2 hm, decide_eq_true hout⟩
  · refine ⟨_, (erasureList_false hcap k n).trans (if_neg ?_), by simp [listedErasures], fun m hm => ?_⟩
    · simpa [listedErasures_eq] using hin
    · simp [listedErasures_eq, hm]

/-! ### SYNDROME (R241, R242) -/

theorem syndromes_eq (msg : List Elem) (t : Nat) :
    syndromes msg t = (List.range t).map fun i => polyEval msg (gfExp (i : Nat)) := by
  rw [syndromes, bind_pure_comp, List.map_eq_map, List.map_map]
  rfl

@[simp] theorem length_blockMessage (d : Nat) (m : Memory) (k n : Nat) : (blockMessage d m k n).length = n := by
  simp [blockMessage]

theorem getElem?_blockMessage (d : Nat) (m : Memory) (k : Nat) {n j : Nat} (hj : j < n) :
    (blockMessage d m k n)[j]? = some (blkEntry d m k j).val := by
  simp [blockMessage, hj]

/-- A Reed-Solomon command completes after it has written memory, registers and SYND_NZ (60_exceptions.md R292). -/
theorem completed_completion (code : ErrCode) (s : State) (m : Memory) (r : Regs) (snz : Bool) :
    Completed code s (completion code (((s.setMem m).setRegs r).setSyndNz snz)) :=
  ⟨rfl, rfl, rfl, rfl, rfl, rfl, rfl, rfl⟩

theorem anyNonzero_iff (synd : List Elem) : anyNonzero synd = true ↔ ∃ x ∈ synd, x ≠ 0 := by
  simp [anyNonzero]

theorem setWidth_and_synd_mask : ∀ v : Elem, v.setWidth 32 &&& windowMask .synd = v.setWidth 32 := by decide +kernel

theorem readEntry_storeSyndromes {synd : List Elem} {i : Nat} {x : Elem} (h : synd[i]? = some x) (d : Nat) (m : Memory) :
    readEntry d (storeSyndromes m synd) .synd i = x.setWidth 32 := by
  have hword : (synd.map fun v => v.setWidth 32)[i]? = some (x.setWidth 32 : Word) := by rw [List.getElem?_map, h]; rfl
  simpa [storeSyndromes, setWidth_and_synd_mask] using readEntry_writeEntries d (w := .synd) _ m 0 hword

theorem sameOutside_storeSyndromes (m : Memory) (synd : List Elem) :
    SameOutside (inEntries .synd 0 synd.length) m (storeSyndromes m synd) := fun a ha =>
  getByte_writeEntries_outside _ m 0 (by simp only [inEntries, List.length_map] at ha ⊢; omega)

theorem encode_syndrome (k : BitVec 8) : encode (.syndrome k) = k.setWidth 32 <<< 8 ||| 0x03 := by
  revert k
  decide +kernel

theorem exec_syndrome_eq {s : State} {g : Geometry} (hg : geometry s = some g) (k : BitVec 8) : exec (.syndrome k) s =
    if k.toNat < g.blocks then
      complete ((s.setMem (storeSyndromes s.mem (blockSyndromes s g k.toNat))).setSyndNz
        (anyNonzero (blockSyndromes s g k.toNat)))
    else raiseError .badBlock s :=
  withGeometry_some hg _

@[simp] theorem length_blockSyndromes (s : State) (g : Geometry) (k : Nat) : (blockSyndromes s g k).length = g.ec :=
  length_syndromes ..

/-- Settles O34: the two checks in R294's order, then the syndromes of the block as it stands. -/
theorem syndromeStoresSyndromes : Obligations.SyndromeStoresSyndromes := by
  refine ⟨encode_syndrome, fun k s => ⟨fun hv => ?_, fun g hg => ⟨fun hk => ?_, fun hk => ?_⟩⟩⟩
  · exact ⟨_, withGeometry_none ((not_versionValid_iff s).1 hv) _, raisedError_completion .badVersion s⟩
  · rw [exec_syndrome_eq hg, if_neg (by omega)]
    exact ⟨_, rfl, raisedError_completion .badBlock s⟩
  · rw [exec_syndrome_eq hg, if_pos hk]
    refine ⟨_, rfl, completed_completion .none s (storeSyndromes s.mem (blockSyndromes s g k.toNat)) s.regs
      (anyNonzero (blockSyndromes s g k.toNat)), rfl, fun i hi d => ?_, ?_, ?_⟩
    · exact readEntry_storeSyndromes (getElem?_syndromes _ hi) d s.mem
    · refine (anyNonzero_iff _).trans ?_
      simp [blockSyndromes, syndromes_eq]
    · simpa using sameOutside_storeSyndromes s.mem (blockSyndromes s g k.toNat)

/-! ### The field as a field of Mathlib (42_galois.md R211) -/

/-- `φ` carries ⊕ and gf_mul into the field `K`, so that facts about fields and their polynomials speak of elements. -/
structure FieldEmbedding {K : Type} [Field K] (φ : Elem → K) : Prop where
  injective : Function.Injective φ
  map_zero  : φ 0#8 = 0
  map_one   : φ 1#8 = 1
  map_add   : ∀ a b, φ (gfAdd a b) = φ a + φ b
  map_mul   : ∀ a b, φ (gfMul a b) = φ a * φ b

/-- The elements are such a field themselves, by the field laws. -/
theorem exists_fieldEmbedding : ∃ (K : Type) (_ : Field K) (φ : Elem → K), FieldEmbedding φ := by
  have hinv : ∀ a : Elem, a ≠ 0#8 → gfMul a ((gfInv a).getD 0#8) = 1#8 := fun a ha => by
    obtain ⟨v, hv, hmul⟩ := exists_gfInv ha
    rw [hv]
    exact hmul
  let field : Field Elem := @Field.ofMinimalAxioms Elem ⟨gfAdd⟩ ⟨gfMul⟩ ⟨id⟩ ⟨fun a => (gfInv a).getD 0#8⟩
    ⟨0#8⟩ ⟨1#8⟩ gfAdd_assoc zero_gfAdd gfAdd_self gfMul_assoc gfMul_comm one_gfMul hinv rfl gfMul_gfAdd
    ⟨0#8, 1#8, by decide⟩
  exact ⟨Elem, field, id, Function.injective_id, rfl, rfl, fun _ _ => rfl, fun _ _ => rfl⟩

section
open Polynomial
variable {K : Type} [Field K] {φ : Elem → K} (hφ : FieldEmbedding φ)

/-- The polynomial of a coefficient list, most significant coefficient first (00_scope.md R12). -/
noncomputable def toPoly (φ : Elem → K) : List Elem → K[X]
  | []     => 0
  | a :: p => C (φ a) * X ^ p.length + toPoly φ p

@[simp] theorem toPoly_nil : toPoly φ [] = 0 := rfl

@[simp] theorem toPoly_cons (a : Elem) (p : List Elem) : toPoly φ (a :: p) = C (φ a) * X ^ p.length + toPoly φ p := rfl

@[simp] theorem toPoly_append (p q : List Elem) : toPoly φ (p ++ q) = toPoly φ p * X ^ q.length + toPoly φ q := by
  induction p with
  | nil => simp
  | cons a p ih =>
    rw [List.cons_append, toPoly_cons, toPoly_cons, ih, List.length_append, pow_add]
    ring

theorem degree_toPoly_lt (p : List Elem) : (toPoly φ p).degree < p.length := by
  induction p with
  | nil => simp
  | cons a p ih =>
    have hstep : (p.length : WithBot ℕ) < (a :: p).length := by exact_mod_cast Nat.lt_succ_self p.length
    exact (degree_add_le _ _).trans_lt (max_lt ((degree_C_mul_X_pow_le _ _).trans_lt hstep) (ih.trans hstep))

include hφ

theorem FieldEmbedding.ne_zero {a : Elem} (ha : a ≠ 0#8) : φ a ≠ 0 := fun h =>
  ha (hφ.injective (h.trans hφ.map_zero.symm))

/-- The field has characteristic 2 (R211). -/
theorem FieldEmbedding.one_add_one : (1 : K) + 1 = 0 := by
  rw [← hφ.map_one, ← hφ.map_add, gfAdd_self, hφ.map_zero]

theorem FieldEmbedding.map_div {a b c : Elem} (h : gfDiv a b = some c) : φ c = φ a / φ b := by
  have hb : b ≠ 0#8 := fun hb => by simp [hb] at h
  obtain ⟨v, hv, hmul⟩ := exists_gfDiv a hb
  obtain rfl : c = v := Option.some.inj (h.symm.trans hv)
  rw [← hmul, hφ.map_mul, mul_div_cancel_right₀ _ (hφ.ne_zero hb)]

theorem FieldEmbedding.map_inv {a b : Elem} (h : gfInv a = some b) : φ b = (φ a)⁻¹ := by
  rw [hφ.map_div h, ← one_div]
  exact congrArg (· / φ a) hφ.map_one

theorem FieldEmbedding.map_gfExp_mul (i : Int) (n : Nat) : φ (gfExp (i * n)) = φ (gfExp i) ^ n := by
  induction n with
  | zero => simp [hφ.map_one]
  | succ n ih => rw [Nat.cast_succ, mul_add, mul_one, ← gfMul_gfExp, hφ.map_mul, ih, pow_succ]

/-- A product of elements. -/
theorem FieldEmbedding.map_product (l : List Elem) : φ (l.foldl gfMul 1#8) = (l.map φ).prod := by
  induction l using List.reverseRecOn with
  | nil => simp [hφ.map_one]
  | append_singleton l a ih => simp [hφ.map_mul, ih]

theorem FieldEmbedding.toPoly_zeros (n : Nat) : toPoly φ (List.replicate n 0#8) = 0 := by
  induction n with
  | zero => rfl
  | succ n ih => simp [List.replicate_succ, ih, hφ.map_zero]

theorem FieldEmbedding.toPoly_zipWith {p q : List Elem} (h : p.length = q.length) :
    toPoly φ (List.zipWith gfAdd p q) = toPoly φ p + toPoly φ q := by
  induction p generalizing q with
  | nil => cases q <;> simp_all
  | cons a p ih =>
    cases q with
    | nil => simp at h
    | cons b q =>
      have hlen : p.length = q.length := Nat.succ.inj h
      rw [List.zipWith_cons_cons, toPoly_cons, toPoly_cons, toPoly_cons, ih hlen, hφ.map_add, C_add, List.length_zipWith,
        ← hlen, min_self]
      ring

theorem FieldEmbedding.toPoly_map_gfMul (a : Elem) (p : List Elem) :
    toPoly φ (p.map (gfMul a)) = C (φ a) * toPoly φ p := by
  induction p with
  | nil => simp
  | cons b p ih =>
    rw [List.map_cons, toPoly_cons, toPoly_cons, ih, hφ.map_mul, C_mul, List.length_map]
    ring

/-- Multiplication of R208 is multiplication of polynomials. -/
theorem FieldEmbedding.toPoly_polyMul (p q : List Elem) : toPoly φ (polyMul p q) = toPoly φ p * toPoly φ q := by
  cases q with
  | nil => simpa [polyMul] using hφ.toPoly_zeros _
  | cons b q =>
    induction p with
    | nil => simpa [nil_polyMul] using hφ.toPoly_zeros _
    | cons a p ih =>
      have hzero : φ 0 = 0 := hφ.map_zero
      have hzeros : toPoly φ (List.replicate p.length 0) = 0 := hφ.toPoly_zeros p.length
      have hlen : ((b :: q).map (gfMul a) ++ List.replicate p.length 0).length = (0 :: polyMul p (b :: q)).length := by
        simp
        omega
      rw [polyMul_cons, hφ.toPoly_zipWith hlen, toPoly_append, hφ.toPoly_map_gfMul, hzeros, List.length_replicate,
        toPoly_cons 0, hzero, C_0, ih, toPoly_cons a]
      ring

theorem FieldEmbedding.eval_toPoly (p : List Elem) (x : Elem) : (toPoly φ p).eval (φ x) = φ (polyEval p x) := by
  have hpower (n : Nat) : φ (power x n) = φ x ^ n := by
    induction n with
    | zero => exact hφ.map_one.trans (pow_zero _).symm
    | succ n ih => rw [power_succ, hφ.map_mul, ih, pow_succ]
  have hsum : polyEval p x = sumOfPowers p x := hornerIsSumOfPowers p x
  rw [hsum]
  induction p with
  | nil => simpa [sumOfPowers] using hφ.map_zero.symm
  | cons a p ih => simp [sumOfPowers_cons, hφ.map_add, hφ.map_mul, hpower, ih (hornerIsSumOfPowers p x)]

/-- Lists of one length with the same polynomial are the same. -/
theorem FieldEmbedding.toPoly_injective {p q : List Elem} (hlen : p.length = q.length) (h : toPoly φ p = toPoly φ q) :
    p = q := by
  induction p generalizing q with
  | nil => exact (List.length_eq_zero_iff.1 hlen.symm).symm
  | cons a p ih =>
    cases q with
    | nil => simp at hlen
    | cons b q =>
      replace hlen : p.length = q.length := Nat.succ.inj hlen
      have hp : (toPoly φ p).coeff q.length = 0 := coeff_eq_zero_of_degree_lt (hlen ▸ degree_toPoly_lt p)
      have hq : (toPoly φ q).coeff q.length = 0 := coeff_eq_zero_of_degree_lt (degree_toPoly_lt q)
      have hlead : a = b := hφ.injective (by simpa [hlen, hp, hq] using congrArg (coeff · q.length) h)
      subst hlead
      rw [ih hlen (by simpa [hlen] using h)]

end

/-! ### The errata locator and the error evaluator (R247, R248) -/

/-- The value of a product is the product of the values. -/
theorem polyEval_polyMul (p q : List Elem) (y : Elem) :
    polyEval (polyMul p q) y = gfMul (polyEval p y) (polyEval q y) := by
  obtain ⟨K, _, φ, hφ⟩ := exists_fieldEmbedding
  apply hφ.injective
  rw [hφ.map_mul, ← hφ.eval_toPoly, ← hφ.eval_toPoly, ← hφ.eval_toPoly, hφ.toPoly_polyMul, Polynomial.eval_mul]

theorem errataLocator_concat (xs : List Elem) (x : Elem) :
    errataLocator (xs ++ [x]) = polyMul (errataLocator xs) [x, 1] := by
  simp [errataLocator]

theorem length_errataLocator (xs : List Elem) : (errataLocator xs).length = xs.length + 1 := by
  induction xs using List.reverseRecOn with
  | nil => rfl
  | append_singleton xs x ih => simp [errataLocator_concat, ih]

theorem errataLocator_ne_nil (xs : List Elem) : errataLocator xs ≠ [] := fun h => by
  simpa [h] using length_errataLocator xs

theorem polyEval_errataLocator (xs : List Elem) (y : Elem) :
    polyEval (errataLocator xs) y = (xs.map fun x => gfAdd 1 (gfMul x y)).foldl gfMul 1 := by
  induction xs using List.reverseRecOn with
  | nil => rfl
  | append_singleton xs x ih =>
    have hfactor : polyEval [x, 1] y = gfAdd 1 (gfMul x y) := gfAdd_comm _ 1
    rw [errataLocator_concat, polyEval_polyMul, ih, hfactor, List.map_append, List.map_singleton, List.foldl_concat]

theorem headD_polyMul_factor {p : List Elem} (hp : p ≠ []) (x : Elem) :
    (polyMul p [x, 1]).headD 0 = gfMul (p.headD 0) x := by
  cases p with
  | nil => exact absurd rfl hp
  | cons a p => simp [polyMul_cons]

theorem headD_errataLocator (xs : List Elem) : (errataLocator xs).headD 0 = xs.foldl gfMul 1 := by
  induction xs using List.reverseRecOn with
  | nil => rfl
  | append_singleton xs x ih =>
    rw [errataLocator_concat, headD_polyMul_factor (errataLocator_ne_nil xs), ih, List.foldl_concat]

/-- The constant term is the value at 0, where every factor is 1. -/
theorem getLastD_errataLocator (xs : List Elem) : (errataLocator xs).getLastD 0 = 1 := by
  have hones (n : Nat) : (List.replicate n 1#8).foldl gfMul 1#8 = 1#8 := by
    induction n with
    | zero => rfl
    | succ n ih => simpa [List.replicate_succ] using ih
  have hvalue := polyEval_errataLocator xs 0#8
  have hlast : polyEval (errataLocator xs) 0 = (errataLocator xs).getLastD 0 :=
    (polyEvalEvaluatesBlock.2.1 _ (errataLocator_ne_nil xs)).1
  rw [← hlast]
  simpa [hones] using hvalue

/-- Settles O38, factor by factor. -/
theorem locatorIsProductOfFactors : Obligations.LocatorIsProductOfFactors :=
  ⟨rfl, fun xs =>
    ⟨length_errataLocator xs, getLastD_errataLocator xs, headD_errataLocator xs, polyEval_errataLocator xs⟩⟩

/-- Settles O39: division by x^(t+1) splits the product before its last t + 1 coefficients. -/
theorem evaluatorIsLowCoefficients : Obligations.EvaluatorIsLowCoefficients := by
  intro synd loc hloc
  have hlen : (polyMul (0 :: synd).reverse loc).length = synd.length + loc.length := by simp
  have hpos : 0 < loc.length := List.length_pos_iff.2 hloc
  refine ⟨_, ?_, ?_, _, (List.take_append_drop ((polyMul (0 :: synd).reverse loc).length - (synd.length + 1)) _).symm⟩
  · rw [evaluatorRemainder, polyDivisionIdentity.2 _ _ (by omega)]
    rfl
  · rw [List.length_drop]
    omega

/-- The order of the locators does not matter: multiplication of polynomials commutes. -/
theorem errataLocator_perm {xs ys : List Elem} (h : xs.Perm ys) : errataLocator xs = errataLocator ys := by
  obtain ⟨K, _, φ, hφ⟩ := exists_fieldEmbedding
  have : RightCommutative fun (loc : List Elem) (x : Elem) => polyMul loc [x, 1] := ⟨fun loc x y =>
    hφ.toPoly_injective (by simp) (by simp only [hφ.toPoly_polyMul]; ring)⟩
  exact h.foldl_eq [1]

/-! ### Forney magnitudes (R249, R250) -/

/-- The Forney magnitude at locator `x` when the other erasures have the locators `others`. -/
def magnitudeAt (rem others : List Elem) (x : Elem) : Option Elem :=
  (gfInv x).bind fun xInv =>
    gfDiv (gfMul x (polyEval rem xInv)) ((others.map fun y => gfAdd 1 (gfMul xInv y)).foldl gfMul 1)

/-- A fold over indexed elements that passes over index `m` is a fold without the element there. -/
theorem foldl_zipIdx_skip {α β : Type} (f : β → α → β) (l : List α) (k m : Nat) (b : β) :
    (l.zipIdx k).foldl (fun b e => if e.2 = k + m then b else f b e.1) b = (l.eraseIdx m).foldl f b := by
  induction l generalizing k m b with
  | nil => rfl
  | cons a l ih =>
    cases m with
    | succ m =>
      rw [List.zipIdx_cons, List.foldl_cons, if_neg (by simp), List.eraseIdx_cons_succ, List.foldl_cons,
        ← ih (k + 1) m, Nat.add_right_comm, Nat.add_assoc]
    | zero =>
      have hrest : (l.zipIdx (k + 1)).foldl (fun b e => if e.2 = k then b else f b e.1) b =
          (l.zipIdx (k + 1)).foldl (fun b e => f b e.1) b :=
        List.foldl_ext _ _ _ fun b e he => if_neg (by have := List.le_snd_of_mem_zipIdx he; omega)
      rw [Nat.add_zero, List.zipIdx_cons, List.foldl_cons, if_pos rfl, List.eraseIdx_cons_zero, hrest,
        ← List.foldl_map (f := Prod.fst) (g := f), List.zipIdx_map_fst]

theorem forneyDenominator_eq (xs : List Elem) (m : Nat) (xInv : Elem) : forneyDenominator xs m xInv =
    ((xs.eraseIdx m).map fun y => gfAdd 1 (gfMul xInv y)).foldl gfMul 1 := by
  rw [forneyDenominator, List.foldl_map]
  simpa using foldl_zipIdx_skip (fun den y => gfMul den (gfAdd 1 (gfMul xInv y))) xs 0 m 1

theorem forneyMagnitude_eq (rem xs : List Elem) (m : Nat) :
    forneyMagnitude rem xs m = magnitudeAt rem (xs.eraseIdx m) (xs.getD m 0) := by
  rw [forneyMagnitude, magnitudeAt]
  cases gfInv (xs.getD m 0) with
  | none      => rfl
  | some xInv => simp [forneyDenominator_eq]

theorem gfDiv_isSome_iff (a b : Elem) : (gfDiv a b).isSome = true ↔ b ≠ 0#8 := by
  refine ⟨fun h hb => by simp [hb] at h, fun hb => ?_⟩
  obtain ⟨v, hv, -⟩ := exists_gfDiv a hb
  simp [hv]

section
variable {K : Type} [Field K] {φ : Elem → K} (hφ : FieldEmbedding φ)
include hφ

theorem FieldEmbedding.map_denominator (xInv : Elem) (others : List Elem) :
    φ ((others.map fun y => gfAdd 1 (gfMul xInv y)).foldl gfMul 1) = (others.map fun y => 1 + φ xInv * φ y).prod := by
  have hone : φ 1 = 1 := hφ.map_one
  refine (hφ.map_product _).trans ?_
  simp only [List.map_map, Function.comp_def, hφ.map_add, hφ.map_mul, hone]

/-- Forney's formula at `x`, read in the field. -/
theorem FieldEmbedding.map_magnitudeAt {rem others : List Elem} {x v : Elem} (h : magnitudeAt rem others x = some v) :
    φ v = φ x * (toPoly φ rem).eval (φ x)⁻¹ / (others.map fun y => 1 + (φ x)⁻¹ * φ y).prod := by
  obtain ⟨xInv, hinv, hdiv⟩ := Option.bind_eq_some_iff.1 h
  rw [hφ.map_div hdiv, hφ.map_denominator, hφ.map_mul, ← hφ.eval_toPoly, hφ.map_inv hinv]

/-- In characteristic 2 the factor 1 ⊕ X⁻¹·Y vanishes exactly when Y = X. -/
theorem FieldEmbedding.one_add_inv_mul_eq_zero_iff {x : K} (hx : x ≠ 0) (y : K) : 1 + x⁻¹ * y = 0 ↔ y = x := by
  rw [← add_right_inj (1 : K), ← add_assoc, hφ.one_add_one, zero_add, add_zero, inv_mul_eq_one₀ hx, eq_comm]

end

/-- R250: a denominator is 0 exactly when another erasure has the same locator. -/
theorem magnitudeAt_isSome_iff (rem others : List Elem) {x : Elem} (hx : x ≠ 0#8) :
    (magnitudeAt rem others x).isSome = true ↔ x ∉ others := by
  obtain ⟨K, _, φ, hφ⟩ := exists_fieldEmbedding
  obtain ⟨xInv, hinv, -⟩ := exists_gfInv hx
  rw [magnitudeAt, hinv, Option.bind_some, gfDiv_isSome_iff, not_iff_not, ← hφ.injective.eq_iff, hφ.map_denominator,
    hφ.map_zero, List.prod_eq_zero_iff, hφ.map_inv hinv]
  simp [hφ.one_add_inv_mul_eq_zero_iff (hφ.ne_zero hx), hφ.injective.eq_iff]

/-! ### Locators of positions (R246) -/

theorem locatorX_ne_zero (n p : Nat) : locatorX n p ≠ 0#8 := gfExp_ne_zero _

/-- Positions of a block of at most 255 codewords have distinct locators. -/
theorem locatorX_injective {n p q : Nat} (hn : n ≤ 255) (hp : p < n) (hq : q < n) (h : locatorX n p = locatorX n q) :
    p = q := by
  have hlog := congrArg gfLog h
  simp only [locatorX, gfLog_gfExp, Option.some.injEq] at hlog
  omega

theorem isSome_mapM_iff {α β : Type} (f : α → Option β) (l : List α) :
    (l.mapM f).isSome = true ↔ ∀ a ∈ l, (f a).isSome = true := by
  induction l with
  | nil => simp
  | cons a l ih =>
    rw [List.forall_mem_cons, ← ih, List.mapM_cons]
    cases f a <;> cases l.mapM f <;> simp

/-- A list repeats nothing when no element is left after it is taken out at its place. -/
theorem nodup_iff_notMem_eraseIdx {α : Type} {l : List α} :
    l.Nodup ↔ ∀ m (hm : m < l.length), l[m] ∉ l.eraseIdx m := by
  constructor
  · exact fun h m hm => (List.nodup_cons.1 ((List.getElem_cons_eraseIdx_perm hm).nodup_iff.2 h)).1
  · refine fun h => List.nodup_iff_injective_getElem.2 fun i j hij => Fin.ext ?_
    by_contra hne
    have hsame : l[j.1]? = some l[i.1] := (List.getElem?_eq_getElem j.2).trans (congrArg some hij.symm)
    exact h i i.2 (List.mem_eraseIdx_iff_getElem?.2 ⟨j, Ne.symm hne, hsame⟩)

/-- All magnitudes are defined when no locator is repeated. -/
theorem forneyMagnitudes_isSome_iff (rem : List Elem) {xs : List Elem} (hxs : ∀ x ∈ xs, x ≠ 0#8) :
    (forneyMagnitudes rem xs).isSome = true ↔ xs.Nodup := by
  rw [forneyMagnitudes, isSome_mapM_iff, nodup_iff_notMem_eraseIdx]
  simp only [List.mem_range]
  refine forall₂_congr fun m hm => ?_
  rw [forneyMagnitude_eq, List.getD_eq_getElem _ _ hm, magnitudeAt_isSome_iff rem _ (hxs _ (List.getElem_mem hm))]

section
variable {n : Nat} {pos : List Nat} (hn : n ≤ 255) (hpos : ∀ p ∈ pos, p < n)
include hn hpos

theorem nodup_locators_iff : (pos.map (locatorX n)).Nodup ↔ pos.Nodup :=
  ⟨List.Nodup.of_map _, List.Nodup.map_on fun p hp q hq => locatorX_injective hn (hpos p hp) (hpos q hq)⟩

theorem forneyMagnitudes_locators_isSome_iff (rem : List Elem) :
    (forneyMagnitudes rem (pos.map (locatorX n))).isSome = true ↔ pos.Nodup := by
  rw [forneyMagnitudes_isSome_iff rem (by simp [locatorX_ne_zero]), nodup_locators_iff hn hpos]

end

/-- Settles O40: a denominator is 0 exactly when a locator, and so a position, is repeated. -/
theorem denominatorZeroIffRepeatedPosition : Obligations.DenominatorZeroIffRepeatedPosition :=
  fun _ _ rem hn hpos => forneyMagnitudes_locators_isSome_iff hn hpos rem

/-! ### The corrected message (R245, R250, R251) -/

theorem magnitudeAt_perm (rem : List Elem) {others others' : List Elem} (h : others.Perm others') (x : Elem) :
    magnitudeAt rem others x = magnitudeAt rem others' x := by
  have : RightCommutative gfMul := ⟨fun a b c => by rw [gfMul_assoc, gfMul_comm b, gfMul_assoc]⟩
  simp only [magnitudeAt, (h.map _).foldl_eq]

/-- The magnitude at position `p` of an erasure list that repeats none (R249). -/
def positionMagnitude (rem : List Elem) (n : Nat) (pos : List Nat) (p : Nat) : Elem :=
  (magnitudeAt rem ((pos.erase p).map (locatorX n)) (locatorX n p)).getD 0

theorem positionMagnitude_perm (rem : List Elem) (n : Nat) {pos pos' : List Nat} (h : pos.Perm pos') :
    positionMagnitude rem n pos = positionMagnitude rem n pos' :=
  funext fun p => by rw [positionMagnitude, positionMagnitude, magnitudeAt_perm rem ((h.erase p).map _)]

theorem mapM_eq_some {α β : Type} {f : α → Option β} {g : α → β} {l : List α} (h : ∀ a ∈ l, f a = some (g a)) :
    l.mapM f = some (l.map g) := by
  induction l with
  | nil => rfl
  | cons a l ih =>
    obtain ⟨ha, hl⟩ := List.forall_mem_cons.1 h
    simp [List.mapM_cons, ha, ih hl]

/-- XOR of magnitudes into distinct positions, position by position. -/
theorem applyMagnitudes_map (f : Nat → Elem) {pos : List Nat} (hnodup : pos.Nodup) (msg : List Elem) :
    applyMagnitudes msg pos (pos.map f) = msg.mapIdx fun j v => if j ∈ pos then gfAdd v (f j) else v := by
  induction pos generalizing msg with
  | nil => exact List.ext_getElem? fun j => by simp [applyMagnitudes]
  | cons p pos ih =>
    obtain ⟨hp, hnodup⟩ := List.nodup_cons.1 hnodup
    refine (ih hnodup (msg.set p (gfAdd (msg.getD p 0) (f p)))).trans (List.ext_getElem? fun j => ?_)
    rw [List.getElem?_mapIdx, List.getElem?_mapIdx, List.getElem?_set]
    by_cases hj : p = j
    · subst hj
      by_cases hlt : p < msg.length <;> simp [hlt, hp]
    · simp [hj, Ne.symm hj]

/-- The remainder of R248 always exists. -/
theorem exists_evaluatorRemainder (synd xs : List Elem) : ∃ rem, evaluatorRemainder synd (errataLocator xs) = some rem :=
  (evaluatorIsLowCoefficients synd _ (errataLocator_ne_nil xs)).imp fun _ h => h.1

section
variable {n : Nat} {pos : List Nat} (hn : n ≤ 255) (hpos : ∀ p ∈ pos, p < n)
include hn hpos

/-- At a position of a list that repeats none the magnitude is defined. -/
theorem magnitudeAt_position (hnodup : pos.Nodup) (rem : List Elem) {p : Nat} (hp : p ∈ pos) :
    magnitudeAt rem ((pos.erase p).map (locatorX n)) (locatorX n p) = some (positionMagnitude rem n pos p) := by
  have hnew : locatorX n p ∉ (pos.erase p).map (locatorX n) := fun h => by
    obtain ⟨q, hq, hqp⟩ := List.mem_map.1 h
    obtain ⟨hne, hq⟩ := hnodup.mem_erase_iff.1 hq
    exact hne (locatorX_injective hn (hpos q hq) (hpos p hp) hqp)
  obtain ⟨v, hv⟩ := Option.isSome_iff_exists.1 ((magnitudeAt_isSome_iff rem _ (locatorX_ne_zero n p)).2 hnew)
  rw [positionMagnitude, hv]
  rfl

theorem forneyMagnitudes_of_nodup (hnodup : pos.Nodup) (rem : List Elem) :
    forneyMagnitudes rem (pos.map (locatorX n)) = some (pos.map (positionMagnitude rem n pos)) := by
  have hat : ∀ m ∈ List.range (pos.map (locatorX n)).length,
      forneyMagnitude rem (pos.map (locatorX n)) m = some (positionMagnitude rem n pos (pos.getD m 0)) := fun m hm => by
    have hm : m < pos.length := by simpa using hm
    rw [forneyMagnitude_eq, List.eraseIdx_map, ← hnodup.erase_getElem m hm, List.getD_eq_getElem _ _ (by simpa using hm),
      List.getElem_map, magnitudeAt_position hn hpos hnodup rem (List.getElem_mem hm), List.getD_eq_getElem _ _ hm]
  rw [forneyMagnitudes, mapM_eq_some hat]
  refine congrArg some (List.ext_getElem (by simp) fun m _ hm => ?_)
  have hm : m < pos.length := by simpa using hm
  simp [hm]

end

section
variable {msg synd : List Elem} {pos : List Nat} (hn : msg.length ≤ 255) (hpos : ∀ p ∈ pos, p < msg.length)
include hn hpos

theorem correctedMessage_of_nodup (hcap : pos.length ≤ synd.length) (hnodup : pos.Nodup) {rem : List Elem}
    (hrem : evaluatorRemainder synd (errataLocator (pos.map (locatorX msg.length))) = some rem) :
    correctedMessage msg synd pos = some (msg.mapIdx fun j v =>
      if j ∈ pos then gfAdd v (positionMagnitude rem msg.length pos j) else v) := by
  rw [correctedMessage, if_neg (Nat.not_lt.2 hcap)]
  simp [hrem, forneyMagnitudes_of_nodup hn hpos hnodup, applyMagnitudes_map _ hnodup]

/-- R245 and R250: a block is uncorrectable when it has more than t erasures or repeats one. -/
theorem correctedMessage_isSome_iff :
    (correctedMessage msg synd pos).isSome = true ↔ pos.length ≤ synd.length ∧ pos.Nodup := by
  obtain ⟨rem, hrem⟩ := exists_evaluatorRemainder synd (pos.map (locatorX msg.length))
  rw [correctedMessage]
  by_cases hcap : synd.length < pos.length
  · rw [if_pos hcap]
    exact iff_of_false Bool.false_ne_true fun h => Nat.not_lt.2 h.1 hcap
  · simp only [if_neg hcap, hrem, Option.isSome_map, forneyMagnitudes_locators_isSome_iff hn hpos]
    exact (and_iff_right (Nat.le_of_not_lt hcap)).symm

theorem length_of_correctedMessage {out : List Elem} (h : correctedMessage msg synd pos = some out) :
    out.length = msg.length := by
  obtain ⟨rem, hrem⟩ := exists_evaluatorRemainder synd (pos.map (locatorX msg.length))
  obtain ⟨hcap, hnodup⟩ := (correctedMessage_isSome_iff (synd := synd) hn hpos).1 (h ▸ rfl)
  rw [correctedMessage_of_nodup hn hpos hcap hnodup hrem] at h
  rw [← Option.some.inj h, List.length_mapIdx]

end

/-- Settles O42: capacity, repeats, the locator and each magnitude are the same for every order of the list. -/
theorem erasureOrderIsIrrelevant : Obligations.ErasureOrderIsIrrelevant := by
  intro msg synd pos pos' hn hpos hperm
  have hpos' : ∀ p ∈ pos', p < msg.length := fun p hp => hpos p (hperm.mem_iff.2 hp)
  have hiff := correctedMessage_isSome_iff (synd := synd) hn hpos
  have hiff' := correctedMessage_isSome_iff (synd := synd) hn hpos'
  rw [← hperm.length_eq, ← hperm.nodup_iff] at hiff'
  by_cases hok : pos.length ≤ synd.length ∧ pos.Nodup
  · obtain ⟨hcap, hnodup⟩ := hok
    obtain ⟨rem, hrem⟩ := exists_evaluatorRemainder synd (pos.map (locatorX msg.length))
    have hrem' := errataLocator_perm (hperm.map (locatorX msg.length)) ▸ hrem
    rw [correctedMessage_of_nodup hn hpos hcap hnodup hrem,
      correctedMessage_of_nodup hn hpos' (hperm.length_eq ▸ hcap) (hperm.nodup_iff.1 hnodup) hrem',
      positionMagnitude_perm rem _ hperm]
    simp only [hperm.mem_iff]
  · rw [Option.not_isSome_iff_eq_none.1 (mt hiff.1 hok), Option.not_isSome_iff_eq_none.1 (mt hiff'.1 hok)]

/-! ### Forney's formula (R255): the erasures' magnitudes are the errors -/

section
open Polynomial
variable {K : Type} [Field K]

/-- x·Ω(x) of R255 for errors `y` at locators `x`: each error's term has the factors of the other erasures. -/
noncomputable def errorEvaluator (P : Finset Nat) (x y : Nat → K) : K[X] :=
  ∑ p ∈ P, C (y p) * X * ∏ q ∈ P.erase p, (C (x q) * X + 1)

theorem natDegree_errorEvaluator_le (P : Finset Nat) (x y : Nat → K) : (errorEvaluator P x y).natDegree ≤ P.card := by
  refine natDegree_sum_le_of_forall_le _ _ fun p hp => ?_
  have hfactor (q : Nat) : (C (x q) * X + 1 : K[X]).natDegree ≤ 1 := by compute_degree
  have hproduct : (∏ q ∈ P.erase p, (C (x q) * X + 1)).natDegree ≤ P.card - 1 := by
    calc (∏ q ∈ P.erase p, (C (x q) * X + 1)).natDegree
        ≤ ∑ q ∈ P.erase p, (C (x q) * X + 1).natDegree := natDegree_prod_le ..
      _ ≤ (P.erase p).card • 1 := Finset.sum_le_card_nsmul _ _ _ fun q _ => hfactor q
      _ = P.card - 1 := by rw [smul_eq_mul, mul_one, Finset.card_erase_of_mem hp]
  have hcard := Finset.card_pos.2 ⟨p, hp⟩
  calc (C (y p) * X * ∏ q ∈ P.erase p, (C (x q) * X + 1)).natDegree
      ≤ 1 + (P.card - 1) := natDegree_mul_le_of_le (by compute_degree) hproduct
    _ = P.card := by omega

/-- At the inverse of an erasure's locator every other error's term has the vanishing factor. -/
theorem eval_errorEvaluator (h2 : (1 : K) + 1 = 0) {P : Finset Nat} {x : Nat → K} {p : Nat} (hp : p ∈ P) (hx : x p ≠ 0)
    (y : Nat → K) :
    (errorEvaluator P x y).eval (x p)⁻¹ = y p * (x p)⁻¹ * ∏ q ∈ P.erase p, (1 + (x p)⁻¹ * x q) := by
  rw [errorEvaluator, eval_finsetSum, Finset.sum_eq_single_of_mem p hp]
  · simp only [eval_mul, eval_prod, eval_add, eval_C, eval_X, eval_one, mul_comm (x _), add_comm _ (1 : K)]
  · intro r _ hr
    rw [eval_mul, eval_prod, Finset.prod_eq_zero (Finset.mem_erase.2 ⟨hr.symm, hp⟩), mul_zero]
    simp [hx, h2]

/-- The syndromes of one error are a geometric series, which its own factor of the locator sums. -/
theorem geom_sum_mul_factor (h2 : (1 : K) + 1 = 0) (x : K) (t : Nat) :
    (∑ i ∈ Finset.range t, (C x * X) ^ i) * (C x * X + 1) = (C x * X) ^ t + 1 := by
  have hneg : (-1 : K[X]) = 1 := neg_eq_of_add_eq_zero_left (by rw [← C_1, ← C_add, h2, C_0])
  simpa [sub_eq_add_neg, hneg] using geom_sum_mul (C x * X : K[X]) t

/-- The product of R248 is the error evaluator up to degree t. -/
theorem exists_syndromes_mul_locator (h2 : (1 : K) + 1 = 0) (P : Finset Nat) (x y : Nat → K) (t : Nat) :
    ∃ high : K[X], (∑ i ∈ Finset.range t, C (∑ p ∈ P, y p * x p ^ i) * X ^ i) * X * ∏ p ∈ P, (C (x p) * X + 1) =
      high * X ^ (t + 1) + errorEvaluator P x y := by
  refine ⟨∑ p ∈ P, C (y p * x p ^ t) * ∏ q ∈ P.erase p, (C (x q) * X + 1), ?_⟩
  have hseries : ∑ i ∈ Finset.range t, C (∑ p ∈ P, y p * x p ^ i) * X ^ i =
      ∑ p ∈ P, C (y p) * ∑ i ∈ Finset.range t, (C (x p) * X) ^ i := by
    simp only [map_sum, Finset.sum_mul, Finset.mul_sum, map_mul, map_pow, mul_pow, mul_assoc]
    exact Finset.sum_comm
  rw [hseries, errorEvaluator, Finset.sum_mul, Finset.sum_mul, Finset.sum_mul, ← Finset.sum_add_distrib]
  refine Finset.sum_congr rfl fun p hp => ?_
  calc C (y p) * (∑ i ∈ Finset.range t, (C (x p) * X) ^ i) * X * ∏ q ∈ P, (C (x q) * X + 1)
      = C (y p) * X * ((∑ i ∈ Finset.range t, (C (x p) * X) ^ i) * (C (x p) * X + 1)) *
          ∏ q ∈ P.erase p, (C (x q) * X + 1) := by rw [← Finset.mul_prod_erase P _ hp]; ring
    _ = C (y p * x p ^ t) * (∏ q ∈ P.erase p, (C (x q) * X + 1)) * X ^ (t + 1) +
          C (y p) * X * ∏ q ∈ P.erase p, (C (x q) * X + 1) := by
        rw [geom_sum_mul_factor h2, map_mul, map_pow]; ring

/-- What lies below degree n is determined modulo x^n. -/
theorem low_part_unique {n : Nat} {a b p q : K[X]} (h : a * X ^ n + p = b * X ^ n + q) (hp : p.degree < n)
    (hq : q.degree < n) : p = q := by
  have hmod (a p : K[X]) (hp : p.degree < n) : (a * X ^ n + p) %ₘ X ^ n = p :=
    (div_modByMonic_unique a p (monic_X_pow n) ⟨by ring, by rwa [degree_X_pow]⟩).2
  rw [← hmod a p hp, h, hmod b q hq]

end

section
open Polynomial
variable {K : Type} [Field K] {φ : Elem → K} (hφ : FieldEmbedding φ)

theorem toPoly_eq_sum (p : List Elem) :
    toPoly φ p = ∑ j ∈ Finset.range p.length, C (φ (p.getD j 0)) * X ^ (p.length - 1 - j) := by
  induction p with
  | nil => rfl
  | cons a p ih =>
    rw [toPoly_cons, ih, List.length_cons, Finset.sum_range_succ', add_comm]
    simp [Nat.sub_sub, Nat.add_comm 1]

include hφ

/-- The syndromes as a polynomial, S_i at degree i + 1 (R248). -/
theorem FieldEmbedding.toPoly_reverse_syndromes (msg : List Elem) (t : Nat) :
    toPoly φ (0 :: syndromes msg t).reverse =
      (∑ i ∈ Finset.range t, C (φ (polyEval msg (gfExp i))) * X ^ i) * X := by
  have hreverse : toPoly φ (syndromes msg t).reverse =
      ∑ i ∈ Finset.range t, C (φ (polyEval msg (gfExp i))) * X ^ i := by
    induction t with
    | zero => simp [syndromes]
    | succ t ih =>
      have hlast : syndromes msg (t + 1) = syndromes msg t ++ [polyEval msg (gfExp t)] := by
        simp [syndromes_eq, List.range_succ]
      rw [hlast, List.reverse_concat, toPoly_cons, ih, Finset.sum_range_succ, List.length_reverse, length_syndromes, add_comm]
  rw [List.reverse_cons, toPoly_append, hreverse]
  simp [hφ.map_zero]

theorem FieldEmbedding.toPoly_errataLocator (xs : List Elem) :
    toPoly φ (errataLocator xs) = (xs.map fun x => C (φ x) * X + 1).prod := by
  induction xs using List.reverseRecOn with
  | nil => simp [errataLocator, hφ.map_one]
  | append_singleton xs x ih => simp [errataLocator_concat, hφ.toPoly_polyMul, ih, hφ.map_one]

/-- The locator of position p is the p-th coefficient's power of α (R246). -/
theorem FieldEmbedding.map_gfExp_pow {n p : Nat} (hp : p < n) (i : Nat) :
    φ (gfExp i) ^ (n - 1 - p) = φ (locatorX n p) ^ i := by
  rw [← hφ.map_gfExp_mul, locatorX, ← hφ.map_gfExp_mul, mul_comm]
  congr 2
  push_cast [Nat.sub_sub, show 1 + p ≤ n by omega]
  ring

/-- The syndromes of the errors `err` at the positions of `P` (R255). -/
theorem FieldEmbedding.map_polyEval_errors {err : List Elem} {P : Finset Nat} (hP : ∀ p ∈ P, p < err.length)
    (hzero : ∀ j, j ∉ P → err.getD j 0 = 0#8) (i : Nat) :
    φ (polyEval err (gfExp i)) = ∑ p ∈ P, φ (err.getD p 0) * φ (locatorX err.length p) ^ i := by
  have hsub : P ⊆ Finset.range err.length := fun p hp => Finset.mem_range.2 (hP p hp)
  rw [← hφ.eval_toPoly, toPoly_eq_sum, eval_finsetSum]
  calc ∑ j ∈ Finset.range err.length, (C (φ (err.getD j 0)) * X ^ (err.length - 1 - j)).eval (φ (gfExp i))
      = ∑ p ∈ P, (C (φ (err.getD p 0)) * X ^ (err.length - 1 - p)).eval (φ (gfExp i)) :=
        (Finset.sum_subset hsub fun j _ hj => by simp only [hzero j hj, hφ.map_zero, C_0, zero_mul, eval_zero]).symm
    _ = ∑ p ∈ P, φ (err.getD p 0) * φ (locatorX err.length p) ^ i := Finset.sum_congr rfl fun p hp => by
        rw [eval_mul, eval_C, eval_pow, eval_X, hφ.map_gfExp_pow (hP p hp)]

/-- The remainder of R248 is the error evaluator. -/
theorem FieldEmbedding.toPoly_remainder {err rem : List Elem} {pos : List Nat} {t : Nat}
    (hpos : ∀ p ∈ pos, p < err.length) (hnodup : pos.Nodup) (hcap : pos.length ≤ t)
    (hzero : ∀ j, j ∉ pos → err.getD j 0 = 0#8)
    (hrem : evaluatorRemainder (syndromes err t) (errataLocator (pos.map (locatorX err.length))) = some rem) :
    toPoly φ rem = errorEvaluator pos.toFinset (fun p => φ (locatorX err.length p)) fun p => φ (err.getD p 0) := by
  obtain ⟨rem', hrem', hlen, high, hprod⟩ :=
    evaluatorIsLowCoefficients (syndromes err t) _ (errataLocator_ne_nil (pos.map (locatorX err.length)))
  obtain rfl : rem' = rem := Option.some.inj (hrem'.symm.trans hrem)
  rw [length_syndromes] at hlen
  have hlow := hlen ▸ degree_toPoly_lt (φ := φ) rem'
  have hbound := (natDegree_errorEvaluator_le pos.toFinset (fun p => φ (locatorX err.length p)) fun p =>
    φ (err.getD p 0)).trans ((List.toFinset_card_le pos).trans hcap)
  obtain ⟨high', hformula⟩ := exists_syndromes_mul_locator hφ.one_add_one pos.toFinset
    (fun p => φ (locatorX err.length p)) (fun p => φ (err.getD p 0)) t
  refine low_part_unique (n := t + 1) (a := toPoly φ high) (b := high') ?_ hlow
    (degree_le_natDegree.trans_lt (by exact_mod_cast Nat.lt_succ_of_le hbound))
  have hlocator : toPoly φ (errataLocator (pos.map (locatorX err.length))) =
      ∏ p ∈ pos.toFinset, (C (φ (locatorX err.length p)) * X + 1) := by
    rw [hφ.toPoly_errataLocator, List.map_map, List.prod_toFinset _ hnodup]
    rfl
  have herrors := hφ.map_polyEval_errors (P := pos.toFinset) (by simpa using hpos) (by simpa using hzero)
  calc toPoly φ high * X ^ (t + 1) + toPoly φ rem'
      = toPoly φ (0 :: syndromes err t).reverse * toPoly φ (errataLocator (pos.map (locatorX err.length))) := by
        rw [← hφ.toPoly_polyMul, hprod, toPoly_append, hlen]
    _ = _ := by rw [hφ.toPoly_reverse_syndromes, hlocator, ← hformula]; simp only [herrors]

end

/-- R255: the magnitude at an erasure is the error there. -/
theorem positionMagnitude_eq_error {err rem : List Elem} {pos : List Nat} {t : Nat} (hn : err.length ≤ 255)
    (hpos : ∀ p ∈ pos, p < err.length) (hnodup : pos.Nodup) (hcap : pos.length ≤ t)
    (hzero : ∀ j, j ∉ pos → err.getD j 0 = 0#8)
    (hrem : evaluatorRemainder (syndromes err t) (errataLocator (pos.map (locatorX err.length))) = some rem)
    {p : Nat} (hp : p ∈ pos) : positionMagnitude rem err.length pos p = err.getD p 0 := by
  obtain ⟨K, _, φ, hφ⟩ := exists_fieldEmbedding
  apply hφ.injective
  have hx := hφ.ne_zero (locatorX_ne_zero err.length p)
  have hothers : (pos.erase p).toFinset = pos.toFinset.erase p := by ext q; simp [hnodup.mem_erase_iff]
  have hmagnitude := magnitudeAt_position hn hpos hnodup rem hp
  have hden : (((pos.erase p).map (locatorX err.length)).map fun y => 1 + (φ (locatorX err.length p))⁻¹ * φ y).prod =
      ∏ q ∈ pos.toFinset.erase p, (1 + (φ (locatorX err.length p))⁻¹ * φ (locatorX err.length q)) := by
    rw [List.map_map, ← hothers, List.prod_toFinset _ (hnodup.erase p)]
    rfl
  have hne : ∏ q ∈ pos.toFinset.erase p, (1 + (φ (locatorX err.length p))⁻¹ * φ (locatorX err.length q)) ≠ 0 := by
    refine Finset.prod_ne_zero_iff.2 fun q hq => mt (hφ.one_add_inv_mul_eq_zero_iff hx _).1 fun h => ?_
    obtain ⟨hqp, hq⟩ := Finset.mem_erase.1 hq
    exact hqp (locatorX_injective hn (hpos q (List.mem_toFinset.1 hq)) (hpos p hp) (hφ.injective h))
  have heval := eval_errorEvaluator (x := fun q => φ (locatorX err.length q)) hφ.one_add_one (List.mem_toFinset.2 hp) hx
    fun q => φ (err.getD q 0)
  beta_reduce at heval
  rw [hφ.map_magnitudeAt hmagnitude, hden, hφ.toPoly_remainder hpos hnodup hcap hzero hrem, heval,
    div_eq_iff hne, mul_comm (φ (err.getD p 0)), mul_assoc, mul_inv_cancel_left₀ hx]

theorem polyEval_zipWith_gfAdd {p q : List Elem} (h : p.length = q.length) (x : Elem) :
    polyEval (List.zipWith gfAdd p q) x = gfAdd (polyEval p x) (polyEval q x) := by
  obtain ⟨K, _, φ, hφ⟩ := exists_fieldEmbedding
  apply hφ.injective
  rw [hφ.map_add, ← hφ.eval_toPoly, ← hφ.eval_toPoly, ← hφ.eval_toPoly, hφ.toPoly_zipWith h, Polynomial.eval_add]

/-- R255: erasures at every position where the message differs from a valid codeword restore the codeword. -/
theorem correctedMessage_restores {msg valid : List Elem} {pos : List Nat} {t : Nat} (hn : msg.length ≤ 255)
    (hlen : valid.length = msg.length) (hpos : ∀ p ∈ pos, p < msg.length) (hnodup : pos.Nodup) (hcap : pos.length ≤ t)
    (hvalid : ∀ i : Nat, i < t → polyEval valid (gfExp i) = 0) (hagree : ∀ j, j ∉ pos → valid[j]? = msg[j]?) :
    correctedMessage msg (syndromes msg t) pos = some valid := by
  have herrlen : (List.zipWith gfAdd msg valid).length = msg.length := by simp [hlen]
  have hsynd : syndromes msg t = syndromes (List.zipWith gfAdd msg valid) t := by
    rw [syndromes_eq, syndromes_eq]
    refine List.map_congr_left fun i hi => ?_
    rw [polyEval_zipWith_gfAdd hlen.symm, hvalid i (List.mem_range.1 hi)]
    exact (gfAdd_zero _).symm
  have hzero : ∀ j, j ∉ pos → (List.zipWith gfAdd msg valid).getD j 0 = 0#8 := fun j hj => by
    rw [List.getD_eq_getElem?_getD, List.getElem?_zipWith, hagree j hj]
    cases msg[j]? <;> simp
  obtain ⟨rem, hrem⟩ := exists_evaluatorRemainder (syndromes msg t) (pos.map (locatorX msg.length))
  have hmagnitude {p : Nat} (hp : p ∈ pos) :
      positionMagnitude rem msg.length pos p = (List.zipWith gfAdd msg valid).getD p 0 := by
    have h := positionMagnitude_eq_error (rem := rem) (herrlen.trans_le hn) (herrlen ▸ hpos) hnodup hcap hzero
      (by rw [herrlen, ← hsynd, hrem]) hp
    rwa [herrlen] at h
  rw [correctedMessage_of_nodup hn hpos (by rwa [length_syndromes]) hnodup hrem]
  refine congrArg some (List.ext_getElem (by simp [hlen]) fun j hj hj' => ?_)
  have hj : j < msg.length := hlen ▸ hj'
  rw [List.getElem_mapIdx]
  split
  · rename_i hp
    rw [hmagnitude hp, List.getD_eq_getElem _ _ (by omega), List.getElem_zipWith, ← gfAdd_assoc, gfAdd_self, zero_gfAdd]
  · rename_i hp
    simpa [hj, hj'] using (hagree j hp).symm

/-! ### The status entry of a block (R254) -/

theorem bstatWord_and_mask (code : ErrCode) (snz : Bool) (nu : Nat) :
    bstatWord code snz nu &&& windowMask .bstat = bstatWord code snz nu := by
  have hcode : (errByte code).setWidth 32 &&& windowMask .bstat = (errByte code).setWidth 32 := by cases code <;> decide
  have hsnz : bitAt snz 8 &&& windowMask .bstat = bitAt snz 8 := by cases snz <;> decide
  have hnu : ∀ u : BitVec 9, u.setWidth 32 <<< 16 &&& windowMask .bstat = u.setWidth 32 <<< 16 := by decide +kernel
  rw [bstatWord, BitVec.and_or_distrib_right, BitVec.and_or_distrib_right, hcode, hsnz, hnu]

theorem toNat_bstatWord (code : ErrCode) (snz : Bool) {nu : Nat} (hnu : nu < 512) :
    (bstatWord code snz nu).toNat = (errByte code).toNat + (if snz then 256 else 0) + 65536 * nu := by
  have hcode : ((errByte code).setWidth 32).toNat = (errByte code).toNat := by cases code <;> rfl
  have hlow : ((errByte code).setWidth 32 ||| bitAt snz 8).toNat = (errByte code).toNat + snz.toNat * 2 ^ 8 := by
    rw [toNat_or_bitAt snz (by decide) (by rw [hcode]; exact (errByte code).isLt), hcode]
  have hbyte := (errByte code).isLt
  have hbit := snz.toNat_le
  have hfield : snz.toNat * 2 ^ 8 = if snz then 256 else 0 := by cases snz <;> rfl
  rw [bstatWord, toNat_or_field _ (by decide) (by omega), hlow, BitVec.toNat_ofNat, Nat.mod_eq_of_lt hnu, hfield,
    Nat.mul_comm nu]
  rfl

/-! ### What the correction of a block leaves in memory (R251, R252) -/

/-- An entry outside the bytes that may have changed reads as it did. -/
theorem SameOutside.readEntry {touched : Nat → Prop} {m m' : Memory} (h : SameOutside touched m m') {w : Window} {i : Nat}
    (hout : ∀ a, inEntries w i 1 a → ¬ touched a) (d : Nat) : readEntry d m' w i = Machine.readEntry d m w i :=
  readEntry_congr (fun a ha ha' => h a (hout a ⟨ha, ha'⟩)) d

theorem SameOutside.blkEntry {touched : Nat → Prop} {m m' : Memory} (h : SameOutside touched m m') {k j : Nat}
    (hout : ∀ a, inEntries .blk (blkIndex k j) 1 a → ¬ touched a) (d : Nat) :
    blkEntry d m' k j = Machine.blkEntry d m k j :=
  congrArg codewordOf (h.readEntry hout d)

theorem sameOutside_writeEntry (m : Memory) (w : Window) (i : Nat) (v : Word) :
    SameOutside (inEntries w i 1) m (writeEntry m w i v) := fun a ha =>
  getByte_writeEntry_outside m v (by simp only [inEntries] at ha; omega)

theorem sameOutside_storeCorrected (m : Memory) (k : Nat) (pos : List Nat) (out : List Elem) :
    SameOutside (fun a => ∃ p ∈ pos, inEntries .blk (blkIndex k p) 1 a) m (storeCorrected m k pos out) := fun _ ha =>
  getByte_foldl_writeEntry_outside fun p hp hin => ha ⟨p, hp, hin⟩

theorem blkEntry_storeCorrected {k : Nat} {pos : List Nat} (hnodup : pos.Nodup) {p : Nat} (hp : p ∈ pos) (d : Nat)
    (m : Memory) (out : List Elem) :
    blkEntry d (storeCorrected m k pos out) k p = { u := false, val := out.getD p 0 } := by
  have hindices : (pos.map (blkIndex k)).Nodup := hnodup.map fun p q h => Nat.add_left_cancel h
  rw [blkEntry, storeCorrected, readEntry_foldl_writeEntry hindices hp, codewordOf_codewordWord]

/-- BLK lies above SYND and BSTAT in the map (20_memory.md R83). -/
theorem not_inEntries_blk {w : Window} (hw : w = .synd ∨ w = .bstat) {i a : Nat} (hi : i < windowSize w)
    (ha : inEntries w i 1 a) (j n : Nat) : ¬ inEntries .blk j n a := by
  rcases hw with rfl | rfl <;> simp only [inEntries, entryAddr, windowBase, windowSize] at * <;> omega

/-- The result code of a block with this corrected message (R254). -/
def blockCode (corrected : Option (List Elem)) : ErrCode := if corrected = none then .uncorrectable else .none

/-- The positions whose codewords a correction writes: the erasures, or none of an uncorrectable block (R251). -/
def writtenPositions (corrected : Option (List Elem)) (pos : List Nat) : List Nat := if corrected = none then [] else pos

/-- The bytes that a correction of block `k` may change. -/
def correctionBytes (t k : Nat) (written : List Nat) (a : Nat) : Prop :=
  inEntries .synd 0 t a ∨ inEntries .bstat k 1 a ∨ ∃ p ∈ written, inEntries .blk (blkIndex k p) 1 a

section
variable {d k n t : Nat} {m : Memory} {pos : List Nat} {synd : List Elem} {corrected : Option (List Elem)}
  (hsynd : syndromes (blockMessage d m k n) t = synd)
  (hcorrected : correctedMessage (blockMessage d m k n) synd pos = corrected)
include hsynd hcorrected

theorem correctBlock_mem : (correctBlock d m k n t pos).mem =
    storeCorrected (writeEntry (storeSyndromes m synd) .bstat k
        (bstatWord (blockCode corrected) (anyNonzero synd) pos.length))
      k (writtenPositions corrected pos) (corrected.getD []) := by
  subst hsynd hcorrected
  rcases correctBlock_cases d m k n t pos with ⟨hnone, -, hmem⟩ | ⟨out, hsome, -, hmem⟩
  · rw [hmem, hnone]
    rfl
  · rw [hmem, hsome]
    rfl

theorem correctBlock_failed : (correctBlock d m k n t pos).failed = (corrected == none) := by
  subst hsynd hcorrected
  rcases correctBlock_cases d m k n t pos with ⟨hnone, hfailed, -⟩ | ⟨out, hsome, hfailed, -⟩
  · rw [hfailed, hnone]
    rfl
  · rw [hfailed, hsome]
    rfl

theorem sameOutside_correctBlock :
    SameOutside (correctionBytes t k (writtenPositions corrected pos)) m (correctBlock d m k n t pos).mem := by
  intro a ha
  obtain ⟨hoffSynd, hoff⟩ := not_or.1 ha
  obtain ⟨hoffStatus, hoffBlk⟩ := not_or.1 hoff
  have hlen : synd.length = t := hsynd ▸ length_syndromes ..
  rw [correctBlock_mem hsynd hcorrected, sameOutside_storeCorrected _ _ _ _ a hoffBlk,
    sameOutside_writeEntry _ _ _ _ a hoffStatus, sameOutside_storeSyndromes m synd a (hlen ▸ hoffSynd)]

theorem readEntry_correctBlock_synd (ht : t ≤ 256) {i : Nat} {x : Elem} (hx : synd[i]? = some x) (d' : Nat) :
    readEntry d' (correctBlock d m k n t pos).mem .synd i = x.setWidth 32 := by
  have hi : i < 256 := (List.getElem?_eq_some_iff.1 hx).1.trans_le (hsynd ▸ (length_syndromes ..).trans_le ht)
  rw [correctBlock_mem hsynd hcorrected, (sameOutside_storeCorrected _ _ _ _).readEntry,
    (sameOutside_writeEntry _ _ _ _).readEntry, readEntry_storeSyndromes hx]
  · intro a ha
    simp only [inEntries, entryAddr, windowBase] at *
    omega
  · exact fun a ha ⟨_, _, hin⟩ => not_inEntries_blk (.inl rfl) hi ha _ _ hin

theorem readEntry_correctBlock_bstat (hk : k < 128) (d' : Nat) :
    readEntry d' (correctBlock d m k n t pos).mem .bstat k =
      bstatWord (blockCode corrected) (anyNonzero synd) pos.length := by
  rw [correctBlock_mem hsynd hcorrected, (sameOutside_storeCorrected _ _ _ _).readEntry, readEntry_writeEntry,
    bstatWord_and_mask]
  exact fun a ha ⟨_, _, hin⟩ => not_inEntries_blk (.inr rfl) hk ha _ _ hin

/-- A corrected codeword is read back, with U = 0 (R251). -/
theorem blkEntry_correctBlock (hn : n ≤ 255) (hpos : ∀ p ∈ pos, p < n) {out : List Elem} (hout : corrected = some out)
    {p : Nat} (hp : p ∈ pos) (d' : Nat) :
    some (blkEntry d' (correctBlock d m k n t pos).mem k p) = out[p]?.map fun v => { u := false, val := v } := by
  have hmsg := (length_blockMessage d m k n).trans_le hn
  have hin : ∀ q ∈ pos, q < (blockMessage d m k n).length := (length_blockMessage d m k n).symm ▸ hpos
  subst hout
  have hnodup := ((correctedMessage_isSome_iff hmsg hin).1 (Option.isSome_of_mem hcorrected)).2
  have hlt : p < out.length := (hin p hp).trans_eq (length_of_correctedMessage hmsg hin hcorrected).symm
  have hwritten : writtenPositions (some out) pos = pos := rfl
  rw [correctBlock_mem hsynd hcorrected, hwritten, blkEntry_storeCorrected hnodup hp]
  simp [hlt]

end

/-- A correction of block `k` leaves an entry of BLK alone that it does not write. -/
theorem not_correctionBytes_blk {t k j : Nat} {written : List Nat} (ht : t ≤ 256) (hk : k < 128)
    (hout : ∀ p ∈ written, blkIndex k p ≠ j) {a : Nat} (ha : inEntries .blk j 1 a) :
    ¬ correctionBytes t k written a := by
  rintro (hin | hin | ⟨p, hp, hin⟩)
  · simp only [inEntries, entryAddr, windowBase] at ha hin
    omega
  · exact not_inEntries_blk (.inr rfl) hk hin _ _ ha
  · have hne := hout p hp
    simp only [inEntries, entryAddr] at ha hin
    omega

/-- A correction of block `k` leaves the status entries of the other blocks alone. -/
theorem not_correctionBytes_bstat {t k k' : Nat} {written : List Nat} (ht : t ≤ 256) (hk' : k' < 128) (hne : k' ≠ k)
    {a : Nat} (ha : inEntries .bstat k' 1 a) : ¬ correctionBytes t k written a := by
  rintro (hin | hin | ⟨_, _, hin⟩)
  · simp only [inEntries, entryAddr, windowBase] at ha hin
    omega
  · simp only [inEntries, entryAddr] at ha hin
    omega
  · exact not_inEntries_blk (.inr rfl) hk' ha _ _ hin

/-! ### CORRECT (R252) -/

/-- CORRECT on a legal erasure list. -/
theorem exec_correct_eq {s : State} {g : Geometry} (hg : geometry s = some g) {k : BitVec 8} (hk : k.toNat < g.blocks) {auto : Bool} {pos : List Nat}
    (hlist : erasureList auto k.toNat (g.blockLen k.toNat) s = some pos) : exec (.correct k auto) s =
      .next (completion (blockCode (blockCorrected s g k.toNat pos))
        (((s.setMem (correctBlock s.draws s.mem k.toNat (g.blockLen k.toNat) g.ec pos).mem).setRegs s.regs).setSyndNz
          (anyNonzero (blockSyndromes s g k.toNat)))) := by
  have hfailed : (correctBlock s.draws s.mem k.toNat (g.blockLen k.toNat) g.ec pos).failed =
    (blockCorrected s g k.toNat pos == none) := correctBlock_failed rfl rfl
  refine (withGeometry_some hg _).trans ?_
  simp only [if_pos hk, hlist, correctBlock_snz, hfailed, beq_iff_eq, blockCode]
  split <;> rfl

/-- Settles O36: the correction writes SYND, BSTAT[k] and, on success, the erasures, in this order and in three windows. -/
theorem correctWritesBlock : Obligations.CorrectWritesBlock := by
  intro k auto s g pos htable hg hk hlist
  have hfits := geometry_fits_of_wf htable hg
  have hn := hfits.blockLen_le k.toNat hk
  have ht : g.ec ≤ 256 := hfits.ec_le.trans (by decide)
  have hpos := lt_of_mem_erasureList hlist
  have hcount := length_erasureList_le hlist (hn.trans (by decide))
  have hsynd : syndromes (blockMessage s.draws s.mem k.toNat (g.blockLen k.toNat)) g.ec = blockSyndromes s g k.toNat := rfl
  have hcorrected : correctedMessage (blockMessage s.draws s.mem k.toNat (g.blockLen k.toNat)) (blockSyndromes s g k.toNat)
    pos = blockCorrected s g k.toNat pos := rfl
  have hframe := sameOutside_correctBlock hsynd hcorrected
  refine ⟨_, exec_correct_eq hg hk hlist, rfl, anyNonzero_iff _,
    fun i x hx d => readEntry_correctBlock_synd hsynd hcorrected ht hx d, fun d => ?_, fun hnone => ?_, fun out hout => ?_⟩
  · have hword := readEntry_correctBlock_bstat hsynd hcorrected (hk.trans_le hfits.blocks_le) d
    exact (congrArg BitVec.toNat hword).trans (toNat_bstatWord _ _ (by omega))
  · rw [hnone] at hframe ⊢
    refine ⟨completed_completion .uncorrectable s _ _ _, fun a ha => hframe a fun h => ha ?_⟩
    simpa [correctionBytes, writtenPositions] using h
  · have hentry {p : Nat} (hp : p ∈ pos) := blkEntry_correctBlock hsynd hcorrected hn hpos hout hp
    rw [hout] at hframe ⊢
    exact ⟨completed_completion .none s _ _ _, fun p hp d => hentry hp d, hframe⟩

/-- Settles O37: a block with more than t erasures has no corrected message, and the rest is what O36 says then. -/
theorem tooManyErasuresAreUncorrectable : Obligations.TooManyErasuresAreUncorrectable := by
  intro k auto s g pos htable hg hk hlist hover
  have hfits := geometry_fits_of_wf htable hg
  have hnone : blockCorrected s g k.toNat pos = none := by
    rw [blockCorrected, correctedMessage, if_pos (by simpa using hover)]
  obtain ⟨t, hexec, -, hnz, hsynd, -, hfail, -⟩ := correctWritesBlock k auto s g pos htable hg hk hlist
  obtain ⟨hcompleted, hframe⟩ := hfail hnone
  refine ⟨t, hexec, hcompleted, fun a ha => hframe a ?_, hsynd, hnz⟩
  have hec := hfits.ec_le
  have hblocks := hfits.blocks_le
  simp only [inEntries, entryAddr, windowBase] at ha ⊢
  omega

/-- Settles O41: the corrected message is the codeword, which CORRECT writes at the erasures and finds everywhere else. -/
theorem correctRestoresValidCodeword : Obligations.CorrectRestoresValidCodeword := by
  intro k auto s g pos valid htable hg hk hlist hnodup hcap hlen hvalid hagree
  have hfits := geometry_fits_of_wf htable hg
  have hn := hfits.blockLen_le k.toNat hk
  have hpos := lt_of_mem_erasureList hlist
  have hsame : ∀ j, j ∉ pos → valid[j]? = (blockMessage s.draws s.mem k.toNat (g.blockLen k.toNat))[j]? := by
    intro j hj
    by_cases hjn : j < g.blockLen k.toNat
    · rw [hagree j hjn hj, getElem?_blockMessage _ _ _ hjn]
    · rw [List.getElem?_eq_none (by omega), List.getElem?_eq_none (by simpa using hjn)]
  have hcorrected : blockCorrected s g k.toNat pos = some valid :=
    correctedMessage_restores (by simpa using hn) (by simpa using hlen) (by simpa using hpos) hnodup hcap hvalid hsame
  obtain ⟨t, hexec, -, -, -, -, -, hsuccess⟩ := correctWritesBlock k auto s g pos htable hg hk hlist
  obtain ⟨hcompleted, hwritten, hframe⟩ := hsuccess valid hcorrected
  have hentry : ∀ p ∈ pos, ∃ v, valid[p]? = some v ∧ blkEntry s.draws t.mem k.toNat p = { u := false, val := v } := by
    intro p hp
    have hlt : p < valid.length := hlen ▸ hpos p hp
    exact ⟨valid[p], List.getElem?_eq_getElem hlt, by simpa [hlt] using hwritten p hp s.draws⟩
  have hcleared : ∀ p ∈ pos, (blkEntry s.draws t.mem k.toNat p).u = false := fun p hp => by
    obtain ⟨_, -, h⟩ := hentry p hp
    rw [h]
  refine ⟨t, hexec, hcompleted, List.ext_getElem? fun j => ?_, hcleared⟩
  by_cases hjn : j < g.blockLen k.toNat
  · rw [getElem?_blockMessage _ _ _ hjn]
    by_cases hj : j ∈ pos
    · obtain ⟨v, hv, h⟩ := hentry j hj
      rw [h, hv]
    · have hkept : blkEntry s.draws t.mem k.toNat j = blkEntry s.draws s.mem k.toNat j :=
        SameOutside.blkEntry (touched := correctionBytes g.ec k.toNat pos) hframe (fun a ha =>
          not_correctionBytes_blk (hfits.ec_le.trans (by decide)) (hk.trans_le hfits.blocks_le)
            (fun p hp h => hj ((Nat.add_left_cancel h : p = j) ▸ hp)) ha) _
      rw [hkept, hagree j hjn hj]
  · rw [List.getElem?_eq_none (by simpa using hjn), List.getElem?_eq_none (by omega)]

/-! ### CORRECT_ALL (R253) -/

section
variable (s : State) (g : Geometry)

/-- The corrected message of block `k` at its flagged positions, from the state at acceptance. -/
def ownCorrected (k : Nat) : Option (List Elem) := blockCorrected s g k (blockFlagged s g k)

/-- The positions that the correction of block `k` writes. -/
def ownWritten (k : Nat) : List Nat := writtenPositions (ownCorrected s g k) (blockFlagged s g k)

/-- The bytes that the loop of R253 may have changed after the blocks below `j`. -/
def loopBytes (j a : Nat) : Prop :=
  inEntries .synd 0 g.ec a ∨ inEntries .bstat 0 j a ∨
    ∃ k, k < j ∧ ∃ p ∈ ownWritten s g k, inEntries .blk (blkIndex k p) 1 a

/-- What the loop of R253 has made of the memory and of its counts after the blocks below `j`. -/
structure BlocksDone (j : Nat) (a : AllBlocks) : Prop where
  frame : SameOutside (loopBytes s g j) s.mem a.mem
  fails : a.fails = (List.range j).countP fun k => ownCorrected s g k == none
  anyNz : a.anyNz = true ↔ ∃ k, k < j ∧ ∃ x ∈ blockSyndromes s g k, x ≠ 0
  synd  : ∀ k, j = k + 1 → ∀ i x, (blockSyndromes s g k)[i]? = some x →
    ∀ d, readEntry d a.mem .synd i = x.setWidth 32
  bstat : ∀ k, k < j → ∀ d, readEntry d a.mem .bstat k =
    bstatWord (blockCode (ownCorrected s g k)) (anyNonzero (blockSyndromes s g k)) (blockFlagged s g k).length
  blk   : ∀ k, k < j → ∀ out, ownCorrected s g k = some out → ∀ p ∈ blockFlagged s g k, ∀ d,
    some (blkEntry d a.mem k p) = out[p]?.map fun v => { u := false, val := v }

theorem blocksDone_zero : BlocksDone s g 0 { mem := s.mem, fails := 0, anyNz := false } where
  frame _ _ := rfl
  fails := rfl
  anyNz := by simp
  synd := by simp
  bstat := by simp
  blk := by simp

end

section
variable {s : State} {g : Geometry} (hg : g.Fits)

theorem mem_of_mem_ownWritten {k p : Nat} (hp : p ∈ ownWritten s g k) : p ∈ blockFlagged s g k := by
  unfold ownWritten writtenPositions at hp
  split at hp
  · cases hp
  · exact hp

/-- The correction of block `j` adds its own bytes to those of the blocks below. -/
theorem loopBytes_succ {j a : Nat} (h : loopBytes s g j a ∨ correctionBytes g.ec j (ownWritten s g j) a) :
    loopBytes s g (j + 1) a := by
  rcases h with (hin | hin | ⟨k, hk, hin⟩) | hin | hin | hin
  · exact .inl hin
  · exact .inr (.inl ⟨hin.1, by have := hin.2; simp only [entryAddr] at this ⊢; omega⟩)
  · exact .inr (.inr ⟨k, Nat.lt_succ_of_lt hk, hin⟩)
  · exact .inl hin
  · exact .inr (.inl ⟨by have := hin.1; simp only [entryAddr] at this ⊢; omega, by simpa using hin.2⟩)
  · exact .inr (.inr ⟨j, Nat.lt_succ_self j, hin⟩)

include hg

theorem lt_of_mem_ownWritten {k p : Nat} (hk : k < g.blocks) (hp : p ∈ ownWritten s g k) : p < 256 := by
  have hflagged := lt_of_mem_flaggedErasures (mem_of_mem_ownWritten hp)
  have hlen := hg.blockLen_le k hk
  omega

/-- In a block's slot the loop changes what that block's own correction writes, and nothing before its turn. -/
theorem ownWritten_of_loopBytes {j k a : Nat} (hj : j ≤ g.blocks) (ha : inEntries .blk (blkIndex k 0) 256 a)
    (h : loopBytes s g j a) : k < j ∧ ∃ p, p ∈ ownWritten s g k := by
  have hec := hg.ec_le
  have hblocks := hg.blocks_le
  rcases h with hin | hin | ⟨k', hk', p, hp, hin⟩
  · simp only [inEntries, entryAddr, windowBase] at ha hin
    omega
  · simp only [inEntries, entryAddr, windowBase] at ha hin
    omega
  · have hp256 := lt_of_mem_ownWritten hg (hk'.trans_le hj) hp
    obtain rfl : k' = k := by
      simp only [inEntries, entryAddr, windowBase, blkIndex] at ha hin
      omega
    exact ⟨hk', p, hp⟩

/-- The loop has not yet changed the block whose turn has come. -/
theorem BlocksDone.blkEntry_eq {j : Nat} {a : AllBlocks} (h : BlocksDone s g j a) (hj : j < g.blocks) {i : Nat}
    (hi : i < 256) (d : Nat) : blkEntry d a.mem j i = blkEntry d s.mem j i :=
  h.frame.blkEntry (fun _ hb hin => lt_irrefl j (ownWritten_of_loopBytes hg hj.le (inEntries_block hi hb) hin).1) d

theorem BlocksDone.blockMessage_eq {j : Nat} {a : AllBlocks} (h : BlocksDone s g j a) (hj : j < g.blocks) :
    blockMessage s.draws a.mem j (g.blockLen j) = blockMessage s.draws s.mem j (g.blockLen j) := by
  have hlen := hg.blockLen_le j hj
  exact List.map_congr_left fun i hi => by rw [h.blkEntry_eq hg hj (by have := List.mem_range.1 hi; omega)]

theorem BlocksDone.flaggedErasures_eq {j : Nat} {a : AllBlocks} (h : BlocksDone s g j a) (hj : j < g.blocks) :
    flaggedErasures s.draws a.mem j (g.blockLen j) = blockFlagged s g j := by
  have hlen := hg.blockLen_le j hj
  exact List.filter_congr fun i hi => by rw [h.blkEntry_eq hg hj (by have := List.mem_range.1 hi; omega)]

/-- One round of the loop does the next block's own correction. -/
theorem BlocksDone.next {j : Nat} {a : AllBlocks} (h : BlocksDone s g j a) (hj : j < g.blocks) :
    BlocksDone s g (j + 1) (correctNext s.draws g a j) := by
  have hec : g.ec ≤ 256 := hg.ec_le.trans (by decide)
  have hlen := hg.blockLen_le j hj
  have hj128 := hj.trans_le hg.blocks_le
  have hsynd : syndromes (blockMessage s.draws a.mem j (g.blockLen j)) g.ec = blockSyndromes s g j := by
    rw [h.blockMessage_eq hg hj, blockSyndromes]
  have hcorrected : correctedMessage (blockMessage s.draws a.mem j (g.blockLen j)) (blockSyndromes s g j)
      (blockFlagged s g j) = ownCorrected s g j := by
    rw [h.blockMessage_eq hg hj, ownCorrected, blockCorrected]
  have hpos : ∀ p ∈ blockFlagged s g j, p < g.blockLen j := fun p hp => lt_of_mem_flaggedErasures hp
  have hframe := sameOutside_correctBlock hsynd hcorrected
  rw [correctNext, h.flaggedErasures_eq hg hj]
  constructor
  case frame =>
    intro b hb
    rw [hframe b fun hin => hb (loopBytes_succ (.inr hin)), h.frame b fun hin => hb (loopBytes_succ (.inl hin))]
  case fails =>
    rw [List.range_succ, List.countP_append, ← h.fails]
    simp only [correctBlock_failed hsynd hcorrected, List.countP_singleton]
    split <;> rfl
  case anyNz =>
    simp only [correctBlock_snz, hsynd, Bool.or_eq_true, h.anyNz, anyNonzero_iff, Nat.lt_succ_iff_lt_or_eq]
    constructor
    · rintro (⟨k, hk, hx⟩ | hx)
      · exact ⟨k, .inl hk, hx⟩
      · exact ⟨j, .inr rfl, hx⟩
    · rintro ⟨k, hk | rfl, hx⟩
      · exact .inl ⟨k, hk, hx⟩
      · exact .inr hx
  case synd =>
    intro k hk i x hx d
    obtain rfl : j = k := Nat.succ.inj hk
    exact readEntry_correctBlock_synd hsynd hcorrected hec hx d
  case bstat =>
    intro k hk d
    rcases Nat.lt_succ_iff_lt_or_eq.1 hk with hk | rfl
    · rw [← h.bstat k hk d]
      exact hframe.readEntry (fun b => not_correctionBytes_bstat hec (hk.trans hj128) hk.ne) d
    · exact readEntry_correctBlock_bstat hsynd hcorrected hj128 d
  case blk =>
    intro k hk out hout p hp d
    rcases Nat.lt_succ_iff_lt_or_eq.1 hk with hk | rfl
    · rw [← h.blk k hk out hout p hp d]
      refine congrArg some (hframe.blkEntry (fun b hb => not_correctionBytes_blk hec hj128 (fun q hq => ?_) hb) d)
      have hq256 : q < 256 := lt_of_mem_ownWritten hg hj hq
      have hplen : p < g.blockLen k := lt_of_mem_flaggedErasures hp
      have hklen := hg.blockLen_le k (hk.trans hj)
      simp only [blkIndex]
      omega
    · exact blkEntry_correctBlock hsynd hcorrected hlen hpos hout hp d

/-- What the whole loop leaves. -/
theorem blocksDone_correctBlocks : BlocksDone s g g.blocks (correctBlocks s.draws g s.mem) := by
  have hloop (j : Nat) (hj : j ≤ g.blocks) : BlocksDone s g j
      ((List.range j).foldl (correctNext s.draws g) { mem := s.mem, fails := 0, anyNz := false }) := by
    induction j with
    | zero => exact blocksDone_zero s g
    | succ j ih =>
      rw [List.range_succ, List.foldl_concat]
      exact (ih (Nat.le_of_succ_le hj)).next hg hj
  exact hloop g.blocks le_rfl

end

theorem exec_correctAll_eq {s : State} {g : Geometry} (hg : geometry s = some g) : exec .correctAll s =
    .next (completion (if (correctBlocks s.draws g s.mem).fails = 0 then .none else .uncorrectable)
      (((s.setMem (correctBlocks s.draws g s.mem).mem).setRegs
        { s.regs with failCount := BitVec.ofNat 8 (correctBlocks s.draws g s.mem).fails }).setSyndNz
          (correctBlocks s.draws g s.mem).anyNz)) := by
  refine (withGeometry_some hg _).trans ?_
  dsimp only
  split <;> rfl

/-- Settles O44: FAIL_COUNT holds the count, which is at most 128, and the rest is what the loop leaves. -/
theorem correctAllIsBlockByBlock : Obligations.CorrectAllIsBlockByBlock := by
  intro s g htable hg
  have hfits := geometry_fits_of_wf htable hg
  have hdone := blocksDone_correctBlocks (s := s) hfits
  have hfails : (correctBlocks s.draws g s.mem).fails ≤ 128 := by
    rw [hdone.fails]
    exact (List.countP_le_length.trans_eq List.length_range).trans hfits.blocks_le
  have hcount : (BitVec.ofNat 8 (correctBlocks s.draws g s.mem).fails).toNat = (correctBlocks s.draws g s.mem).fails :=
    Nat.mod_eq_of_lt (by omega)
  have hzero : BitVec.ofNat 8 (correctBlocks s.draws g s.mem).fails = 0 ↔ (correctBlocks s.draws g s.mem).fails = 0 := by
    rw [← BitVec.toNat_inj, hcount]
    rfl
  refine ⟨_, exec_correctAll_eq hg, ?_, rfl, hcount.trans hdone.fails, hdone.anyNz,
    hdone.synd _ (by have := hfits.blocks_pos; omega),
    fun k hk => ⟨hdone.bstat k hk, fun hnone a ha => hdone.frame a ?_, hdone.blk k hk⟩,
    fun a ha => hdone.frame a fun h => ha ?_⟩
  · simp only [completion_regs, State.setSyndNz_regs, State.setRegs_regs, hzero]
    exact completed_completion _ s _ _ _
  · intro hin
    obtain ⟨-, p, hp⟩ := ownWritten_of_loopBytes hfits le_rfl ha hin
    rw [ownWritten, ownCorrected, hnone] at hp
    cases hp
  · exact h.imp_right (Or.imp_right fun ⟨k, hk, p, hp, hin⟩ => ⟨k, hk, p, mem_of_mem_ownWritten hp, hin⟩)

end Sys2Proof.Machine

/-! # The control commands (44_control.md): NOP and RESET -/

namespace Sys2Proof.Machine

/-- An opcode without a block operand, and so without AUTO, has one command word at most (R113). -/
theorem exists_decode_error_of_ne_commandWord {w : Word} {op : BitVec 8} (hblock : op ∉ blockOpcodes) (hop : opField w = op)
    (hne : w ≠ commandWord op 0 false) : ∃ e, decode w = .error e := by
  have hcorrect : op ≠ 0x04 := fun h => hblock (h ▸ by decide)
  refine (illegal_iff w).2 (.inr fun ⟨harg, hauto, hrsv⟩ => hne ?_)
  exact (eq_commandWord_iff w op 0 false).2 ⟨hop, harg (hop ▸ hblock), hauto (hop ▸ hcorrect), hrsv⟩

theorem exec_nop_eq (s : State) : exec .nop s = .next (completion .none s) := rfl

theorem exec_reset_eq (s : State) :
    exec .reset s = .next (completion .none ((s.setRegs Regs.reset).setStatus Status.reset)) := rfl

/-- A completion sets DONE, so the line is IE afterwards (60_exceptions.md R296). -/
@[simp] theorem irq_completion (code : ErrCode) (s : State) : irq (completion code s) = s.regs.ie :=
  Bool.and_true _

/-- Settles O12: NOP is its completion, and from reset the word 0 is placed as the next command. -/
theorem nopOnlyCompletes : Obligations.NopOnlyCompletes := by
  refine ⟨by decide, fun w hop hne => exists_decode_error_of_ne_commandWord (by decide) hop hne, fun s => ?_, ?_⟩
  · obtain ⟨hcompleted, hsyndNz, hregs, hmem⟩ := raisedError_completion .none s
    exact ⟨_, exec_nop_eq s, hcompleted, Bool.or_false _, hsyndNz, hregs, hmem, irq_completion .none s⟩
  · have hstep := placedCommandRunsNext State.reset 32 0 .nop isoVecTable_legal (by decide)
    exact ⟨_, hstep.trans (exec_nop_eq _), by decide⟩

/-- Settles O13: RESET completes from the reset values of the registers and of STATUS, where IE is 0. -/
theorem resetCommandRestoresRegisters : Obligations.ResetCommandRestoresRegisters := by
  refine ⟨by decide, fun w hop hne => exists_decode_error_of_ne_commandWord (by decide) hop hne, fun s => ?_⟩
  refine ⟨_, exec_reset_eq s, ?_, rfl, irq_completion .none _, rfl, rfl, rfl, rfl⟩
  exact show statusWord (statusComplete .none Status.reset) = 0x00000002 by decide

end Sys2Proof.Machine

/-! # Exceptions (60_exceptions.md): how a command ends, the order of its checks, and the interrupt line -/

namespace Sys2Proof.Machine

/-! ### What a completion leaves (R292) -/

/-- Only RESET touches a status flag other than SYND_NZ before its completion. -/
theorem Effect.completed {i : Instr} {s u : State} (h : Effect s i u) (hi : i ≠ .reset) (code : ErrCode) :
    Completed code s (completion code u) := by
  cases h with
  | unchanged | result | walk | deal | syndromes | correction | corrections => exact ⟨rfl, rfl, rfl, rfl, rfl, rfl, rfl, rfl⟩
  | reset => exact absurd rfl hi

/-- Settles O8: RESET completes from STATUS = 0, and every other command from an effect that keeps the flags. -/
theorem everyCommandCompletes : Obligations.EveryCommandCompletes := by
  intro i s
  by_cases hreset : i = .reset
  · subst hreset
    exact ⟨_, exec_reset_eq s, rfl, rfl, rfl, rfl, rfl, fun h => absurd rfl h, fun _ => ⟨rfl, rfl⟩⟩
  · obtain ⟨code, u, hu, heffect⟩ := exec_completesWithEffect i s
    have hcompleted := heffect.completed hreset code
    exact ⟨_, hu, rfl, rfl, hcompleted.rom, hcompleted.inputs, hcompleted.reads, fun _ => hcompleted,
      fun h => absurd h hreset⟩

/-! ### The three ways to end (00_scope.md R13, R293) -/

/-- The codes that a command can raise (R290). -/
def raisableCodes : Instr → List ErrCode
  | .nop | .reset | .gfAdd | .gfMul | .gfExp => []
  | .traverse => [.badVersion, .badValue]
  | .deinterleave => [.badVersion, .shortStream, .badValue]
  | .syndrome _ | .polyEval _ => [.badVersion, .badBlock]
  | .correct _ _ => [.badVersion, .badBlock, .badErasure, .uncorrectable]
  | .correctAll => [.badVersion, .uncorrectable]
  | .gfDiv | .gfInv => [.divZero]
  | .gfPow | .gfLog => [.logZero]

/-- `EndsWith s codes r`: a command that started in `s` and can raise `codes` only has ended with the answer `r`. -/
inductive EndsWith (s : State) (codes : List ErrCode) : Result → Prop where
  /-- `complete()`, after any effect. -/
  | success (u : State) : EndsWith s codes (complete u)
  /-- `raise Error(code)`, before any effect. -/
  | error {code : ErrCode} (hcode : code ∈ codes) : EndsWith s codes (raiseError code s)
  /-- `complete_with(E_UNCORRECTABLE)`, after any effect. -/
  | failure (hcode : .uncorrectable ∈ codes) (u : State) : EndsWith s codes (completeUncorrectable u)

theorem fieldResult_endsWith {codes : List ErrCode} {code : ErrCode} (hcode : code ∈ codes) (r : Option Elem) (s : State) :
    EndsWith s codes (fieldResult code r s) := by
  cases r with
  | none   => exact .error hcode
  | some v => exact .success _

theorem execTraverse_endsWith (s : State) : EndsWith s (raisableCodes .traverse) (execTraverse s) := by
  refine withGeometry_elim (fun _ => .error (by decide)) fun g _ => ?_
  dsimp only
  split
  · exact .error (by decide)
  · exact .success _

theorem execDeinterleave_endsWith (s : State) : EndsWith s (raisableCodes .deinterleave) (execDeinterleave s) := by
  refine withGeometry_elim (fun _ => .error (by decide)) fun g _ => ?_
  dsimp only
  split
  · exact .error (by decide)
  · split
    · exact .error (by decide)
    · exact .success _

theorem withBlock_endsWith {codes : List ErrCode} (hversion : .badVersion ∈ codes) (hblock : .badBlock ∈ codes) {s : State}
    {run : Geometry → Result} (hrun : ∀ g, EndsWith s codes (run g)) (k : BitVec 8) :
    EndsWith s codes (withBlock k s run) :=
  withBlock_elim (fun _ => .error hversion) (fun _ _ _ => .error hblock) fun g _ _ => hrun g

theorem execCorrect_endsWith (k : BitVec 8) (auto : Bool) (s : State) :
    EndsWith s (raisableCodes (.correct k auto)) (execCorrect k auto s) := by
  refine withBlock_endsWith (by simp [raisableCodes]) (by simp [raisableCodes]) (fun g => ?_) k
  cases erasureList auto k.toNat (g.blockLen k.toNat) s with
  | none => exact .error (by simp [raisableCodes])
  | some pos =>
    dsimp only
    split
    · exact .failure (by simp [raisableCodes]) _
    · exact .success _

theorem execCorrectAll_endsWith (s : State) : EndsWith s (raisableCodes .correctAll) (execCorrectAll s) := by
  refine withGeometry_elim (fun _ => .error (by decide)) fun g _ => ?_
  dsimp only
  split
  · exact .success _
  · exact .failure (by decide) _

/-- Every command, from every state, ends in one of the three ways, with a code that R290 lists for it. -/
theorem exec_endsWith (i : Instr) (s : State) : EndsWith s (raisableCodes i) (exec i s) := by
  cases i with
  | nop | gfAdd | gfMul | gfExp | reset => exact .success _
  | traverse       => exact execTraverse_endsWith s
  | deinterleave   => exact execDeinterleave_endsWith s
  | syndrome k | polyEval k =>
    exact withBlock_endsWith (by simp [raisableCodes]) (by simp [raisableCodes]) (fun _ => .success _) k
  | correct k auto => exact execCorrect_endsWith k auto s
  | correctAll     => exact execCorrectAll_endsWith s
  | gfDiv | gfInv | gfPow | gfLog => exact fieldResult_endsWith (by decide) _ s

theorem endsWith_of_exec {i : Instr} {s t : State} (h : exec i s = .next t) : EndsWith s (raisableCodes i) (.next t) :=
  h ▸ exec_endsWith i s

/-- The state after a command, read off the way it has ended. -/
theorem EndsWith.cases_errCode {codes : List ErrCode} {s t : State} (h : EndsWith s codes (.next t)) :
    t.status.errCode = .none ∨ t.status.errCode ∈ codes ∧
      (t.status.errCode = .uncorrectable ∨ RaisedError t.status.errCode s t) := by
  cases h with
  | success u       => exact .inl rfl
  | error hcode     => exact .inr ⟨hcode, .inr (raisedError_completion _ s)⟩
  | failure hcode u => exact .inr ⟨hcode, .inl rfl⟩

/-- Settles O9: of the three ways to end, only `raise Error(code)` is left. -/
theorem errorsLeaveOnlyStatus : Obligations.ErrorsLeaveOnlyStatus := by
  intro i s t hexec hnone huncorrectable
  obtain h | ⟨-, h | h⟩ := (endsWith_of_exec hexec).cases_errCode
  · exact absurd h hnone
  · exact absurd h huncorrectable
  · exact h

/-- Settles O10: a command ends with success or with a code of its list. -/
theorem commandsRaiseOnlyTheirCodes : Obligations.CommandsRaiseOnlyTheirCodes := by
  refine ⟨by decide, fun i s t hexec => ?_⟩
  obtain h | ⟨h, -⟩ := (endsWith_of_exec hexec).cases_errCode
  · exact .inl h
  · exact .inr h

/-! ### The order of the checks (R294) -/

theorem exists_raisedError {r : Result} {code : ErrCode} {s : State} (h : r = .next (completion code s)) :
    ∃ t, r = .next t ∧ RaisedError code s t :=
  ⟨_, h, raisedError_completion code s⟩

theorem withBlock_eq {s : State} {g : Geometry} (hg : geometry s = some g) (k : BitVec 8) (run : Geometry → Result) :
    withBlock k s run = if k.toNat < g.blocks then run g else raiseError .badBlock s :=
  withGeometry_some hg _

theorem exec_correct_badErasure {s : State} {g : Geometry} (hg : geometry s = some g) {k : BitVec 8}
    (hk : k.toNat < g.blocks) {auto : Bool} (hlist : erasureList auto k.toNat (g.blockLen k.toNat) s = none) :
    exec (.correct k auto) s = .next (completion .badErasure s) := by
  refine (withBlock_eq hg k _).trans ?_
  rw [if_pos hk, hlist]
  rfl

/-- Settles O11, check by check: each premise says that the checks before pass and this one fails. -/
theorem errorsAreReportedInOrder : Obligations.ErrorsAreReportedInOrder := by
  intro s
  have hversion (hv : ¬ VersionValid s) (run : Geometry → Result) :
      ∃ t, withGeometry s run = .next t ∧ RaisedError .badVersion s t :=
    exists_raisedError (withGeometry_none ((not_versionValid_iff s).1 hv) run)
  refine ⟨fun hv => ?_, fun hv k auto => ?_, fun g hg k hk auto => ?_, fun g hg ⟨p, hp, hskip, hval⟩ => ?_,
    fun g hg hshort => ?_, fun g hg hlong ⟨i, hi, hcode⟩ => ?_, fun g hg k auto hk hlist => ?_⟩
  · simp only [List.forall_mem_cons]
    exact ⟨hversion hv _, hversion hv _, hversion hv _, List.forall_mem_nil _⟩
  · simp only [List.forall_mem_cons]
    exact ⟨hversion hv _, hversion hv _, hversion hv _, List.forall_mem_nil _⟩
  · have hblock (run : Geometry → Result) : ∃ t, withBlock k s run = .next t ∧ RaisedError .badBlock s t :=
      exists_raisedError ((withBlock_eq hg k run).trans (if_neg (Nat.not_lt.2 hk)))
    simp only [List.forall_mem_cons]
    exact ⟨hblock _, hblock _, hblock _, List.forall_mem_nil _⟩
  · have hreserved : ((visitOrder g.size).any fun p => consumesReserved (modCell s.draws s.mem p.1 p.2)) = true :=
      List.any_eq_true.2 ⟨p, hp, by simp [consumesReserved, hskip, hval]⟩
    exact exists_raisedError (by rw [exec_traverse_eq hg, if_pos hreserved])
  · exact exists_raisedError (by rw [exec_deinterleave_eq hg, if_pos hshort])
  · have hreserved : ((List.range (8 * (g.dataTotal + g.ecTotal))).any fun i => bitCode s.draws s.mem i == 3) = true :=
      List.any_eq_true.2 ⟨i, List.mem_range.2 hi, by simp [hcode]⟩
    exact exists_raisedError (by rw [exec_deinterleave_eq hg, if_neg (Nat.not_lt.2 hlong), if_pos hreserved])
  · exact exists_raisedError (exec_correct_badErasure hg hk hlist)

/-! ### The interrupt line (R296) -/

theorem irq_eq_true_iff (s : State) : irq s = true ↔ s.regs.ie = true ∧ s.status.done = true := Bool.and_eq_true_iff

theorem irq_acceptCommand (v : Word) (s : State) : irq (acceptCommand v s) = false := Bool.and_false _

theorem irq_of_exec {i : Instr} {s t : State} (h : exec i s = .next t) : irq t = t.regs.ie := by
  obtain ⟨code, u, rfl, -⟩ := effect_of_exec h
  exact irq_completion code u

theorem irq_writeReg_ctrl (s : State) (v : Word) : irq (writeReg s v .ctrl) = (v.getLsbD 0 && s.status.done) := rfl

theorem irq_writeReg_status (s : State) (v : Word) :
    irq (writeReg s v .status) = (s.regs.ie && (s.status.done && !v.getLsbD 1)) := rfl

/-- Settles O56: a completion sets DONE, and CTRL and STATUS are writable while BUSY = 1 too. -/
theorem interruptLine : Obligations.InterruptLine := by
  refine ⟨irq_eq_true_iff, fun _ _ _ => irq_of_exec, fun s => ?_⟩
  have hwrite {r : Reg} (h : s.status.busy = false ∨ writableBusy r = true) (v : Word) :
      irq (portWrite s (regOffset r) 0xF v) = irq (writeReg s v r) := congrArg irq (portWrite_regOffset h v)
  have hctrl (v : Word) := (hwrite (r := .ctrl) (.inr rfl) v).trans (irq_writeReg_ctrl s v)
  have hstatus (v : Word) := (hwrite (r := .status) (.inr rfl) v).trans (irq_writeReg_status s v)
  refine ⟨fun v hidle => ?_, fun v hv => ?_, fun v hv => ⟨?_, ?_⟩, fun v hv => ?_, rfl⟩
  · exact (hwrite (r := .cmd) (.inl hidle) v).trans (irq_acceptCommand v s)
  · exact (hstatus v).trans (by rw [hv, Bool.not_true, Bool.and_false, Bool.and_false])
  · exact (hctrl v).trans (by rw [hv, Bool.false_and])
  · exact (congrArg State.status (portWrite_regOffset (s := s) (r := .ctrl) (.inr rfl) v)).trans rfl
  · exact (hctrl v).trans (by rw [hv, Bool.true_and])

end Sys2Proof.Machine

/-! # Runs and repeated corrections (70_reset_and_hazards.md): how a run ends, and CORRECT on a corrected block -/

namespace Sys2Proof.Machine

/-! ### A run ends (R341, R342) -/

/-- The engine's step always completes, with its move list kept: an illegal word too (30_encoding.md R113, 60_exceptions.md R292). -/
theorem engineStep_completes (s : State) :
    ∃ t, engineStep s = .next t ∧ t.status.busy = false ∧ t.rom = s.rom ∧ t.inputs = s.inputs := by
  cases hdecode : decode s.pending with
  | ok i =>
    obtain ⟨t, hexec, hbusy, -, hrom, hinputs, -⟩ := everyCommandCompletes i s
    exact ⟨t, (engineStep_of_decode hdecode).trans hexec, hbusy, hrom, hinputs⟩
  | error e => exact ⟨_, engineStep_of_decode_error hdecode, rfl, rfl, rfl⟩

section
variable {s : State} (ht : VecTableLegal s.rom.vecTable)
include ht

/-- With no move left a busy engine completes, and an idle one changes nothing. -/
theorem step_ends_run (hinputs : s.inputs = []) : ∃ t, step s = .next t ∧ RunEnded t := by
  cases hbusy : s.status.busy with
  | true =>
    obtain ⟨t, hengine, hidle, -, hkept⟩ := engineStep_completes s
    have hturn : nextTurn s = (.command, s) := by simp [nextTurn, hinputs, hbusy]
    exact ⟨t, (step_of_command_turn ht hturn).trans hengine, hkept.trans hinputs, hidle⟩
  | false =>
    obtain ⟨-, hidleTurn, -⟩ := hostMovesAndIdleTurns s ht
    exact ⟨s, hidleTurn hbusy hinputs, hinputs, hbusy⟩

/-- A step takes the first waiting move off the list, whichever it is. -/
theorem step_takes_move {m : Move} {rest : List Move} (hinputs : s.inputs = m :: rest) :
    ∃ t, step s = .next t ∧ t.rom = s.rom ∧ t.inputs = rest := by
  obtain ⟨hport, -, hidleTurn⟩ := hostMovesAndIdleTurns s ht
  cases m with
  | port transaction => exact ⟨_, hport transaction rest hinputs, portStep_rom .., portStep_inputs ..⟩
  | engine =>
    cases hbusy : s.status.busy with
    | true =>
      obtain ⟨t, hengine, -, hrom, hkept⟩ := engineStep_completes (s.setInputs rest)
      have hturn : nextTurn s = (.command, s.setInputs rest) := by simp [nextTurn, hinputs, hbusy]
      exact ⟨t, (step_of_command_turn ht hturn).trans hengine, hrom, hkept⟩
    | false => exact ⟨_, hidleTurn rest hbusy hinputs, rfl, rfl⟩

end

theorem run_succ_of_step {M : Host.Core} {s t : M.State} (h : M.step s = .next t) (n : Nat) :
    M.run (n + 1) s = M.run n t := by
  rw [Host.Core.run, h]

/-- Settles O60, by induction on the list of moves. -/
theorem runEnds : Obligations.RunEnds := by
  intro s ht
  induction hinputs : s.inputs generalizing s with
  | nil =>
    obtain ⟨t, hstep, hended⟩ := step_ends_run ht hinputs
    exact ⟨t, run_succ_of_step (M := core) hstep 0, hended⟩
  | cons m rest ih =>
    obtain ⟨t, hstep, hrom, hrest⟩ := step_takes_move ht hinputs
    obtain ⟨u, hrun, hended⟩ := ih t (hrom ▸ ht) hrest
    exact ⟨u, (run_succ_of_step (M := core) hstep _).trans hrun, hended⟩

/-! ### CORRECT on a corrected block (R339) -/

/-- Every draw sees the same value in an entry that has been written (10_state.md R63). -/
theorem readEntry_of_written {m : Memory} (hwhole : writtenWhole m) {w : Window} {i : Nat}
    (hwritten : (getByte m (entryAddr w i)).isSome = true) (d d' : Nat) : readEntry d m w i = readEntry d' m w i := by
  have hbyte (j : Nat) (hj : j < 4) : readByte d m (entryAddr w i + j) = readByte d' m (entryAddr w i + j) := by
    have haddr := entryAddr_mod_four w i
    obtain ⟨v, hv⟩ := Option.isSome_iff_exists.1 (hwhole _ hwritten (entryAddr w i + j) (by omega))
    simp [readByte, hv]
  rw [readEntry, readEntry, readWord, readWord, hbyte 3 (by decide), hbyte 2 (by decide), hbyte 1 (by decide),
    show readByte d m (entryAddr w i) = readByte d' m (entryAddr w i) from hbyte 0 (by decide)]

/-- A block has no unknown flag when those it had are cleared and its other codewords are kept. -/
theorem flaggedErasures_eq_nil {d d' k n : Nat} {m m' : Memory}
    (hcleared : ∀ p ∈ flaggedErasures d m k n, (blkEntry d' m' k p).u = false)
    (hkept : ∀ j, j < n → j ∉ flaggedErasures d m k n → blkEntry d' m' k j = blkEntry d m k j) :
    flaggedErasures d' m' k n = [] := by
  refine List.filter_eq_nil_iff.2 fun j hj => ?_
  by_cases hflagged : j ∈ flaggedErasures d m k n
  · simp [hcleared j hflagged]
  · rw [hkept j (List.mem_range.1 hj) hflagged]
    exact fun hu => hflagged (List.mem_filter.2 ⟨hj, hu⟩)

/-- An error-free CORRECT k, auto leaves no unknown flag in a block whose codewords have all been written. -/
theorem erasureList_auto_after_correct {k : BitVec 8} {s t : State} {g : Geometry} (h : Inv s) (hg : geometry s = some g)
    (hk : k.toNat < g.blocks)
    (hwritten : ∀ j, j < g.blockLen k.toNat → (getByte s.mem (entryAddr .blk (blkIndex k.toNat j))).isSome = true)
    (hexec : exec (.correct k true) s = .next t) (hok : t.status.errCode = .none) :
    erasureList true k.toNat (g.blockLen k.toNat) t = some [] := by
  have hfits := geometry_fits h.tableLegal hg
  obtain ⟨t', hexec', -, -, -, -, hfail, hsuccess⟩ :=
    correctWritesBlock k true s g (blockFlagged s g k.toNat) h.tableLegal.1 hg hk rfl
  obtain rfl := Host.Outcome.next.inj (hexec'.symm.trans hexec)
  cases hcorrected : blockCorrected s g k.toNat (blockFlagged s g k.toNat) with
  | none => exact absurd (hok.symm.trans (hfail hcorrected).1.errCode) (by decide)
  | some out =>
    obtain ⟨-, hentry, hframe⟩ := hsuccess out hcorrected
    refine congrArg some (flaggedErasures_eq_nil (d := s.draws) (m := s.mem) (fun p hp => ?_) fun j hj hout => ?_)
    · obtain ⟨v, -, hv⟩ := Option.map_eq_some_iff.1 (hentry p hp t'.draws).symm
      rw [← hv]
    · have hkept : blkEntry t'.draws t'.mem k.toNat j = blkEntry t'.draws s.mem k.toNat j :=
        SameOutside.blkEntry (touched := correctionBytes g.ec k.toNat (blockFlagged s g k.toNat)) hframe (fun a ha =>
          not_correctionBytes_blk (hfits.ec_le.trans (by decide)) (hk.trans_le hfits.blocks_le)
            (fun p hp heq => hout ((Nat.add_left_cancel heq : p = j) ▸ hp)) ha) _
      exact hkept.trans (congrArg codewordOf (readEntry_of_written h.memWhole (hwritten j hj) _ _))

/-- CORRECT with no erasure succeeds and leaves BLK alone: no position is corrected
(43_reed_solomon.md R251, R256). -/
theorem exec_correct_of_no_erasure {k : BitVec 8} {auto : Bool} {s : State} {g : Geometry}
    (htable : VecTableWf (vecEntries s.rom.vecTable)) (hg : geometry s = some g) (hk : k.toNat < g.blocks)
    (hlist : erasureList auto k.toNat (g.blockLen k.toNat) s = some []) :
    ∃ t, exec (.correct k auto) s = .next t ∧ Completed .none s t ∧
      ∀ a, inEntries .blk 0 32768 a → getByte t.mem a = getByte s.mem a := by
  have hfits := geometry_fits_of_wf htable hg
  have hlen := hfits.blockLen_le k.toNat hk
  obtain ⟨t, hexec, -, -, -, -, -, hsuccess⟩ := correctWritesBlock k auto s g [] htable hg hk hlist
  obtain ⟨out, hout⟩ : ∃ out, blockCorrected s g k.toNat [] = some out :=
    Option.isSome_iff_exists.1 ((correctedMessage_isSome_iff (by simpa using hlen) (by simp)).2 (by simp))
  obtain ⟨hcompleted, -, hframe⟩ := hsuccess out hout
  refine ⟨t, hexec, hcompleted, fun a ha => hframe a ?_⟩
  have hec := hfits.ec_le
  have hblocks := hfits.blocks_le
  simp only [List.not_mem_nil, false_and, exists_false, or_false, inEntries, entryAddr, windowBase] at ha ⊢
  omega

/-- Settles O43: the first correction leaves no unknown flag, and a correction without erasures leaves BLK alone. -/
theorem secondAutoCorrectChangesNothing : Obligations.SecondAutoCorrectChangesNothing := by
  intro k s t g hinv hg hk hwritten hexec hok
  have hlist := erasureList_auto_after_correct hinv hg hk hwritten hexec hok
  obtain rfl := Host.Outcome.next.inj ((exec_correct_eq hg hk rfl).symm.trans hexec)
  exact ⟨hlist, exec_correct_of_no_erasure hinv.tableLegal.1 hg hk hlist⟩

end Sys2Proof.Machine
